-- ==== Sys2Proof/Word.lean ====
section
/-! DEFINITION. The widths of the block: bytes, words, register indices and the immediates of an opcode
(`00_scope.md` R5, `30_encoding.md` R61). -/

namespace Sys2Proof

/-- A byte of MEM, a V register, a timer, an 8-bit immediate `nn` (R10, R40). -/
abbrev Byte := BitVec 8

/-- PC, I, OPCODE and a stack slot (R13, R17, R18, R26). -/
abbrev Word := BitVec 16

/-- A register index, the fields `x` and `y`: every value 0 to 15 is valid (R10). -/
abbrev Reg := Fin 16

/-- The 4-bit immediate `n` of Dxyn (R63). -/
abbrev Nibble := BitVec 4

/-- The 12-bit address `nnn` (R63). -/
abbrev Addr12 := BitVec 12

end Sys2Proof
end

