-- ==== Sys2Proof/Syntax.lean ====
section
/-! DEFINITION. The instructions: one constructor per row of `spec/opcode_table.json` (`30_encoding.md` R64), in the
table's order, with the fields its pattern names. -/

namespace Sys2Proof

/-- One decoded instruction. The comment gives the pattern of R64. -/
inductive Instr where
  | cls                            -- 00E0
  | ret                            -- 00EE
  | jp (nnn : Addr12)              -- 1nnn
  | call (nnn : Addr12)            -- 2nnn
  | seImm (x : Reg) (nn : Byte)    -- 3xnn
  | sneImm (x : Reg) (nn : Byte)   -- 4xnn
  | seReg (x y : Reg)              -- 5xy0
  | ldImm (x : Reg) (nn : Byte)    -- 6xnn
  | addImm (x : Reg) (nn : Byte)   -- 7xnn
  | ldReg (x y : Reg)              -- 8xy0
  | orReg (x y : Reg)              -- 8xy1
  | andReg (x y : Reg)             -- 8xy2
  | xorReg (x y : Reg)             -- 8xy3
  | addReg (x y : Reg)             -- 8xy4
  | sub (x y : Reg)                -- 8xy5
  | shr (x y : Reg)                -- 8xy6: y is ignored (R73) and kept, so that decoding loses no bit
  | subn (x y : Reg)               -- 8xy7
  | shl (x y : Reg)                -- 8xyE: y is ignored (R73) and kept
  | sneReg (x y : Reg)             -- 9xy0
  | ldI (nnn : Addr12)             -- Annn
  | jpV0 (nnn : Addr12)            -- Bnnn
  | rnd (x : Reg) (nn : Byte)      -- Cxnn
  | drw (x y : Reg) (n : Nibble)   -- Dxyn
  | skp (x : Reg)                  -- Ex9E
  | sknp (x : Reg)                 -- ExA1
  | ldVxDt (x : Reg)               -- Fx07
  | ldVxK (x : Reg)                -- Fx0A
  | ldDtVx (x : Reg)               -- Fx15
  | ldStVx (x : Reg)               -- Fx18
  | addI (x : Reg)                 -- Fx1E
  | ldF (x : Reg)                  -- Fx29
  | bcd (x : Reg)                  -- Fx33
  | stRegs (x : Reg)               -- Fx55
  | ldRegs (x : Reg)               -- Fx65
  | undef (op : Word)              -- any other word (R71, R86); the word is kept, so that encoding gives it back
  deriving DecidableEq, Repr

/-- The mnemonic of an instruction, as R64 and `spec/opcode_table.json` spell it. -/
def Instr.mnemonic : Instr → String
  | .cls => "CLS"
  | .ret => "RET"
  | .jp _ => "JP"
  | .call _ => "CALL"
  | .seImm _ _ => "SE_IMM"
  | .sneImm _ _ => "SNE_IMM"
  | .seReg _ _ => "SE_REG"
  | .ldImm _ _ => "LD_IMM"
  | .addImm _ _ => "ADD_IMM"
  | .ldReg _ _ => "LD_REG"
  | .orReg _ _ => "OR"
  | .andReg _ _ => "AND"
  | .xorReg _ _ => "XOR"
  | .addReg _ _ => "ADD_REG"
  | .sub _ _ => "SUB"
  | .shr _ _ => "SHR"
  | .subn _ _ => "SUBN"
  | .shl _ _ => "SHL"
  | .sneReg _ _ => "SNE_REG"
  | .ldI _ => "LD_I"
  | .jpV0 _ => "JP_V0"
  | .rnd _ _ => "RND"
  | .drw _ _ _ => "DRW"
  | .skp _ => "SKP"
  | .sknp _ => "SKNP"
  | .ldVxDt _ => "LD_VX_DT"
  | .ldVxK _ => "LD_VX_K"
  | .ldDtVx _ => "LD_DT_VX"
  | .ldStVx _ => "LD_ST_VX"
  | .addI _ => "ADD_I"
  | .ldF _ => "LD_F"
  | .bcd _ => "BCD"
  | .stRegs _ => "ST_REGS"
  | .ldRegs _ => "LD_REGS"
  | .undef _ => "UNDEF"

end Sys2Proof
end

