-- ==== Sys2Proof/Decode.lean ====
section
/-! DEFINITION. From bytes to an instruction and back: the field extraction of `30_encoding.md` R61, the decode tree of
R65 to R71, the encoder, and the opcode map of R64 as data. -/

namespace Sys2Proof

/-! ## Fields (R61) -/

/-- `fam = op[15:12]`. -/
def Word.fam (op : Word) : BitVec 4 := op.extractLsb' 12 4

/-- `x = op[11:8]`, a register index. -/
def Word.x (op : Word) : Reg := (op.extractLsb' 8 4).toFin

/-- `y = op[7:4]`, a register index. -/
def Word.y (op : Word) : Reg := (op.extractLsb' 4 4).toFin

/-- `n = op[3:0]`. -/
def Word.n (op : Word) : Nibble := op.extractLsb' 0 4

/-- `nn = op[7:0]`. -/
def Word.nn (op : Word) : Byte := op.extractLsb' 0 8

/-- `nnn = op[11:0]`. -/
def Word.nnn (op : Word) : Addr12 := op.extractLsb' 0 12

/-- The opcode of two consecutive bytes, the one at the lower address first: `hi ++ lo` (R42, R60, R82). -/
def wordOfBytes (hi lo : Byte) : Word := hi ++ lo

/-! ## Decoding (R65 to R71) -/

/-- Family 0x0: the whole word is compared (R66). -/
def decodeFamily0 (op : Word) : Instr :=
  if op = 0x00E0#16 then .cls
  else if op = 0x00EE#16 then .ret
  else .undef op

/-- Family 0x8: secondary dispatch on `n` (R67). -/
def decodeFamily8 (op : Word) : Instr :=
  match Word.n op with
  | 0x0#4 => .ldReg (Word.x op) (Word.y op)
  | 0x1#4 => .orReg (Word.x op) (Word.y op)
  | 0x2#4 => .andReg (Word.x op) (Word.y op)
  | 0x3#4 => .xorReg (Word.x op) (Word.y op)
  | 0x4#4 => .addReg (Word.x op) (Word.y op)
  | 0x5#4 => .sub (Word.x op) (Word.y op)
  | 0x6#4 => .shr (Word.x op) (Word.y op)
  | 0x7#4 => .subn (Word.x op) (Word.y op)
  | 0xE#4 => .shl (Word.x op) (Word.y op)
  | _ => .undef op

/-- Family 0xE: secondary dispatch on `nn` (R68). -/
def decodeFamilyE (op : Word) : Instr :=
  match Word.nn op with
  | 0x9E#8 => .skp (Word.x op)
  | 0xA1#8 => .sknp (Word.x op)
  | _ => .undef op

/-- Family 0xF: secondary dispatch on `nn` (R69). -/
def decodeFamilyF (op : Word) : Instr :=
  match Word.nn op with
  | 0x07#8 => .ldVxDt (Word.x op)
  | 0x0A#8 => .ldVxK (Word.x op)
  | 0x15#8 => .ldDtVx (Word.x op)
  | 0x18#8 => .ldStVx (Word.x op)
  | 0x1E#8 => .addI (Word.x op)
  | 0x29#8 => .ldF (Word.x op)
  | 0x33#8 => .bcd (Word.x op)
  | 0x55#8 => .stRegs (Word.x op)
  | 0x65#8 => .ldRegs (Word.x op)
  | _ => .undef op

/-- Decode, total on every word (R72): primary dispatch on `fam` (R65); families 5 and 9 need `n = 0` (R70, D15). -/
def decode (op : Word) : Instr :=
  match Word.fam op with
  | 0x0#4 => decodeFamily0 op
  | 0x1#4 => .jp (Word.nnn op)
  | 0x2#4 => .call (Word.nnn op)
  | 0x3#4 => .seImm (Word.x op) (Word.nn op)
  | 0x4#4 => .sneImm (Word.x op) (Word.nn op)
  | 0x5#4 => if Word.n op = 0x0#4 then .seReg (Word.x op) (Word.y op) else .undef op
  | 0x6#4 => .ldImm (Word.x op) (Word.nn op)
  | 0x7#4 => .addImm (Word.x op) (Word.nn op)
  | 0x8#4 => decodeFamily8 op
  | 0x9#4 => if Word.n op = 0x0#4 then .sneReg (Word.x op) (Word.y op) else .undef op
  | 0xA#4 => .ldI (Word.nnn op)
  | 0xB#4 => .jpV0 (Word.nnn op)
  | 0xC#4 => .rnd (Word.x op) (Word.nn op)
  | 0xD#4 => .drw (Word.x op) (Word.y op) (Word.n op)
  | 0xE#4 => decodeFamilyE op
  | _ => decodeFamilyF op

/-- Why bytes hold no instruction. The only reason: fewer than the two bytes every instruction has (R60); no word is
rejected (R71, R72). -/
inductive DecodeError where
  | truncated
  deriving DecidableEq, Repr

/-- Decode the instruction at the head of a byte sequence, lower address first, and give the bytes after it (R60). -/
def decodeBytes : List Byte → Except DecodeError (Instr × List Byte)
  | hi :: lo :: rest => .ok (decode (wordOfBytes hi lo), rest)
  | _ => .error .truncated

/-! ## Encoding (R62, R64) -/

/-- Format NNN. -/
def encodeNnn (fam : BitVec 4) (nnn : Addr12) : Word := fam ++ nnn

/-- Formats XNN and XSUB: family, x, and the low byte (an immediate or a sub-opcode). -/
def encodeXnn (fam : BitVec 4) (x : Reg) (nn : Byte) : Word := fam ++ (BitVec.ofFin x : BitVec 4) ++ nn

/-- Format XYN. -/
def encodeXyn (fam : BitVec 4) (x y : Reg) (n : Nibble) : Word :=
  fam ++ (BitVec.ofFin x : BitVec 4) ++ (BitVec.ofFin y : BitVec 4) ++ n

/-- The word of an instruction, from the patterns of R64. -/
def encode : Instr → Word
  | .cls => 0x00E0#16
  | .ret => 0x00EE#16
  | .jp nnn => encodeNnn 0x1#4 nnn
  | .call nnn => encodeNnn 0x2#4 nnn
  | .seImm x nn => encodeXnn 0x3#4 x nn
  | .sneImm x nn => encodeXnn 0x4#4 x nn
  | .seReg x y => encodeXyn 0x5#4 x y 0x0#4
  | .ldImm x nn => encodeXnn 0x6#4 x nn
  | .addImm x nn => encodeXnn 0x7#4 x nn
  | .ldReg x y => encodeXyn 0x8#4 x y 0x0#4
  | .orReg x y => encodeXyn 0x8#4 x y 0x1#4
  | .andReg x y => encodeXyn 0x8#4 x y 0x2#4
  | .xorReg x y => encodeXyn 0x8#4 x y 0x3#4
  | .addReg x y => encodeXyn 0x8#4 x y 0x4#4
  | .sub x y => encodeXyn 0x8#4 x y 0x5#4
  | .shr x y => encodeXyn 0x8#4 x y 0x6#4
  | .subn x y => encodeXyn 0x8#4 x y 0x7#4
  | .shl x y => encodeXyn 0x8#4 x y 0xE#4
  | .sneReg x y => encodeXyn 0x9#4 x y 0x0#4
  | .ldI nnn => encodeNnn 0xA#4 nnn
  | .jpV0 nnn => encodeNnn 0xB#4 nnn
  | .rnd x nn => encodeXnn 0xC#4 x nn
  | .drw x y n => encodeXyn 0xD#4 x y n
  | .skp x => encodeXnn 0xE#4 x 0x9E#8
  | .sknp x => encodeXnn 0xE#4 x 0xA1#8
  | .ldVxDt x => encodeXnn 0xF#4 x 0x07#8
  | .ldVxK x => encodeXnn 0xF#4 x 0x0A#8
  | .ldDtVx x => encodeXnn 0xF#4 x 0x15#8
  | .ldStVx x => encodeXnn 0xF#4 x 0x18#8
  | .addI x => encodeXnn 0xF#4 x 0x1E#8
  | .ldF x => encodeXnn 0xF#4 x 0x29#8
  | .bcd x => encodeXnn 0xF#4 x 0x33#8
  | .stRegs x => encodeXnn 0xF#4 x 0x55#8
  | .ldRegs x => encodeXnn 0xF#4 x 0x65#8
  | .undef op => op

/-- The two bytes of an instruction in the order memory holds them: high byte at the lower address (R42, R60). -/
def encodeBytes (i : Instr) : List Byte := [(encode i).extractLsb' 8 8, (encode i).extractLsb' 0 8]

/-! ## The opcode map as data (R64) -/

/-- One row of R64: a word matches it when `(op & mask) == match`. -/
structure OpcodeRow where
  mnemonic : String
  matchBits : Word
  mask : Word
  deriving DecidableEq, Repr

/-- `(op & mask) == match` (R64). -/
def OpcodeRow.matchesWord (r : OpcodeRow) (op : Word) : Bool := op &&& r.mask == r.matchBits

/-- Rows 1 to 18 of R64. -/
def opcodeRowsLow : List OpcodeRow :=
  [ ⟨"CLS", 0x00E0#16, 0xFFFF#16⟩, ⟨"RET", 0x00EE#16, 0xFFFF#16⟩, ⟨"JP", 0x1000#16, 0xF000#16⟩,
    ⟨"CALL", 0x2000#16, 0xF000#16⟩, ⟨"SE_IMM", 0x3000#16, 0xF000#16⟩, ⟨"SNE_IMM", 0x4000#16, 0xF000#16⟩,
    ⟨"SE_REG", 0x5000#16, 0xF00F#16⟩, ⟨"LD_IMM", 0x6000#16, 0xF000#16⟩, ⟨"ADD_IMM", 0x7000#16, 0xF000#16⟩,
    ⟨"LD_REG", 0x8000#16, 0xF00F#16⟩, ⟨"OR", 0x8001#16, 0xF00F#16⟩, ⟨"AND", 0x8002#16, 0xF00F#16⟩,
    ⟨"XOR", 0x8003#16, 0xF00F#16⟩, ⟨"ADD_REG", 0x8004#16, 0xF00F#16⟩, ⟨"SUB", 0x8005#16, 0xF00F#16⟩,
    ⟨"SHR", 0x8006#16, 0xF00F#16⟩, ⟨"SUBN", 0x8007#16, 0xF00F#16⟩, ⟨"SHL", 0x800E#16, 0xF00F#16⟩ ]

/-- Rows 19 to 34 of R64. -/
def opcodeRowsHigh : List OpcodeRow :=
  [ ⟨"SNE_REG", 0x9000#16, 0xF00F#16⟩, ⟨"LD_I", 0xA000#16, 0xF000#16⟩, ⟨"JP_V0", 0xB000#16, 0xF000#16⟩,
    ⟨"RND", 0xC000#16, 0xF000#16⟩, ⟨"DRW", 0xD000#16, 0xF000#16⟩, ⟨"SKP", 0xE09E#16, 0xF0FF#16⟩,
    ⟨"SKNP", 0xE0A1#16, 0xF0FF#16⟩, ⟨"LD_VX_DT", 0xF007#16, 0xF0FF#16⟩, ⟨"LD_VX_K", 0xF00A#16, 0xF0FF#16⟩,
    ⟨"LD_DT_VX", 0xF015#16, 0xF0FF#16⟩, ⟨"LD_ST_VX", 0xF018#16, 0xF0FF#16⟩, ⟨"ADD_I", 0xF01E#16, 0xF0FF#16⟩,
    ⟨"LD_F", 0xF029#16, 0xF0FF#16⟩, ⟨"BCD", 0xF033#16, 0xF0FF#16⟩, ⟨"ST_REGS", 0xF055#16, 0xF0FF#16⟩,
    ⟨"LD_REGS", 0xF065#16, 0xF0FF#16⟩ ]

/-- The 34 recognised patterns of R64. -/
def opcodeTable : List OpcodeRow := opcodeRowsLow ++ opcodeRowsHigh

/-- Whether a word matches one of the 34 rows of R64. -/
def recognised (op : Word) : Bool := opcodeTable.any fun r => r.matchesWord op

/-! ## The host's probe -/

/-- The instruction the decoder reads from the bits `w` of a table row, bit 0 the least significant bit of the word: the
word is laid out high byte first (R60) and given to the byte decoder. Every instruction is 16 bits, so a shorter `nbits`
leaves the bits above it zero. -/
def decodeTableWord (nbits w : Nat) : Option Instr :=
  let op := BitVec.ofNat 16 (w % 2 ^ nbits)
  match decodeBytes [op.extractLsb' 8 8, op.extractLsb' 0 8] with
  | .ok (i, _) => some i
  | .error _ => none

end Sys2Proof
end

