-- ==== Sys2Proof/Config.lean ====
section
/-! DEFINITION. What the document leaves to the implementation: the free random byte (`92_eei_decisions.md` D12) and the
default of the parameter FONT (D2, `10_state.md` R29). -/

namespace Sys2Proof

/-- The free byte `rnd` of the k-th draw (R6, R111, D12): any value 0 to 255, under no law. It has no body, so no proof
can use a value of it. UNSAFE only if a claim read it as a distribution (log 1). -/
opaque Config.rnd : Nat → Byte

/-- PRESUMED (log 2): glyphs 0 to 7 of the customary CHIP-8 font, the default R29 gives "from general knowledge". -/
def Config.fontLow : List Byte :=
  [ 0xF0#8, 0x90#8, 0x90#8, 0x90#8, 0xF0#8,   0x20#8, 0x60#8, 0x20#8, 0x20#8, 0x70#8,
    0xF0#8, 0x10#8, 0xF0#8, 0x80#8, 0xF0#8,   0xF0#8, 0x10#8, 0xF0#8, 0x10#8, 0xF0#8,
    0x90#8, 0x90#8, 0xF0#8, 0x10#8, 0x10#8,   0xF0#8, 0x80#8, 0xF0#8, 0x10#8, 0xF0#8,
    0xF0#8, 0x80#8, 0xF0#8, 0x90#8, 0xF0#8,   0xF0#8, 0x10#8, 0x20#8, 0x40#8, 0x40#8 ]

/-- PRESUMED (log 2): glyphs 8 to F of the same default. -/
def Config.fontHigh : List Byte :=
  [ 0xF0#8, 0x90#8, 0xF0#8, 0x90#8, 0xF0#8,   0xF0#8, 0x90#8, 0xF0#8, 0x10#8, 0xF0#8,
    0xF0#8, 0x90#8, 0xF0#8, 0x90#8, 0x90#8,   0xE0#8, 0x90#8, 0xE0#8, 0x90#8, 0xE0#8,
    0xF0#8, 0x80#8, 0x80#8, 0x80#8, 0xF0#8,   0xE0#8, 0x90#8, 0x90#8, 0x90#8, 0xE0#8,
    0xF0#8, 0x80#8, 0xF0#8, 0x80#8, 0xF0#8,   0xF0#8, 0x80#8, 0xF0#8, 0x80#8, 0x80#8 ]

/-- The default value of FONT (R29). A claim about glyphs names the font as a premise instead of leaning on it. -/
def Config.defaultFont : Vector Byte 80 := ⟨(Config.fontLow ++ Config.fontHigh).toArray, rfl⟩

end Sys2Proof
end

