-- ==== Sys2Proof/Machine/State.lean ====
section
/-! DEFINITION. The state of the block as plain data (`10_state.md`), its state after RESET (R28, R180), the host's
transactions (`00_scope.md` R8), and the reasons a transaction does not end in a next state (`60_exceptions.md` R150). -/

namespace Sys2Proof.Machine

/-- The six transactions by which the host changes or observes the block (R8). The free byte of a STEP is not an
argument: it is the free value `Config.rnd` at `State.draws` (log 1). -/
inductive Transaction where
  | reset                            -- R180, R181
  | load (bytes : List Byte)         -- R182
  | step                             -- R80
  | tick                             -- R163
  | keySet (k : Fin 16) (b : Bool)   -- R170
  | fbRead                           -- R130
  deriving DecidableEq, Repr

/-- MEM as the bytes that differ from its reset contents: (address, byte) pairs, addresses strictly rising
(`Memory.wf`). -/
abbrev Memory := List Host.Cell

/-- FB: 32 rows of 64 one-bit cells, row-major; bit `cx` of row `cy` is `FB[cy * 64 + cx]`, 1 = lit (R24, R130). -/
abbrev Framebuffer := Vector (BitVec 64) 32

/-- Everything `10_state.md` gives the block, and four fields of the model's own (the last four). -/
structure State where
  /-- V0 to VF (R10, R11). -/
  v : Vector Byte 16
  /-- I (R17). -/
  ireg : Word
  /-- PC (R13). -/
  pc : Word
  /-- SP, the number of return addresses held, 0 to 16 (R19). -/
  sp : Fin 17
  /-- STACK (R18). -/
  stack : Vector Word 16
  /-- DT, the delay timer (R20). -/
  dt : Byte
  /-- ST, the sound timer (R21). -/
  st : Byte
  /-- FB (R24, R130). -/
  fb : Framebuffer
  /-- KEY (R25). -/
  key : Vector Bool 16
  /-- OPCODE, the word the last STEP fetched (R26). -/
  opcode : Word
  /-- MEM (R40). -/
  mem : Memory
  /-- The model's own: the parameter FONT (R29, D2), never written; RESET pre-loads it (log 2). -/
  font : Vector Byte 80
  /-- The model's own: what the host issues next, oldest first; when it is empty the host issues STEPs (log 3). -/
  schedule : List Transaction
  /-- The model's own: how many free bytes RND has drawn (log 1). -/
  draws : Nat
  /-- The model's own: whether a LOAD has succeeded or a STEP has fetched since RESET (R183, log 4). -/
  launched : Bool
  deriving DecidableEq, Repr

/-- The state RESET gives (R28, R180) for a FONT, keeping the model's draw counter and schedule: "all state zero except
PC=0x200 and the font table pre-loaded". Unlisted memory reads as the reset contents, so nothing is listed. -/
def State.resetWith (font : Vector Byte 80) (draws : Nat) (schedule : List Transaction) : State where
  v := Vector.replicate 16 0x00#8
  ireg := 0x0000#16
  pc := 0x0200#16
  sp := 0
  stack := Vector.replicate 16 0x0000#16
  dt := 0x00#8
  st := 0x00#8
  fb := Vector.replicate 32 0#64
  key := Vector.replicate 16 false
  opcode := 0x0000#16
  mem := []
  font := font
  schedule := schedule
  draws := draws
  launched := false

/-- The machine right after reset (R28, R180), with the default FONT (R29, PRESUMED, log 2), no draw taken (DESIGN CHOICE,
log 1) and a host that issues only STEPs (DESIGN CHOICE, log 3). -/
def State.reset : State := State.resetWith Config.defaultFont 0 []

/-- The errors of R150, each reported to the host by the transaction that raised it; every one carries the state the
block is left in (`after`), from which the host may halt, reset or skip (R160, log 5). -/
inductive Fault where
  /-- Raised by LOAD when `0x200 + length > 4096` (R151, R182); nothing has changed. Safe: the spec's own error. -/
  | capacityError (length : Nat) (after : State)
  /-- Raised by 2nnn when SP = 16 (R92, R152); PC has advanced. Safe: the spec's own error. -/
  | stackOverflow (target : Addr12) (after : State)
  /-- Raised by 00EE when SP = 0 (R94, R153); PC has advanced. Safe: the spec's own error. -/
  | stackUnderflow (after : State)
  /-- Raised by the fetch at PC > 0xFFE (R81; nothing has changed), by Dxyn, Fx33, Fx55, Fx65 when their range leaves MEM
  (R46, R47) and by Ex9E, ExA1 when Vx > 15 (R140, R141); for a handler PC has advanced. Safe: the spec's own error. -/
  | boundsError (info : Nat) (after : State)
  deriving DecidableEq, Repr

/-- Why the model gives a transaction no meaning. -/
inductive Refusal where
  /-- An instruction whose arm has no meaning yet; no arm of this model raises it. Safe. -/
  | notModelled (mnemonic : String)
  /-- A LOAD after a successful LOAD or after a STEP: "This spec does not define them" (R183, D14, U8). Safe: the model
  stops where the spec gives no behaviour (log 4). -/
  | loadAfterLaunch
  deriving DecidableEq, Repr

end Sys2Proof.Machine
end

