-- ==== Sys2Proof/Machine/Ops.lean ====
section
/-! DEFINITION. The named operations over registers, stack, framebuffer and memory; the shared range check; and raising an
error, the block's only exceptional condition (`20_memory.md`, `60_exceptions.md` R150, R159). There is no return from an
error to model: the block has no handler (R160). -/

namespace Sys2Proof.Machine

/-- The result of a transaction. -/
abbrev Result := Host.Outcome State Fault Refusal

/-! ## Memory (R40 to R56) -/

/-- What MEM holds at an address nothing has written since RESET: FONT at 0x050 to 0x09F, zero elsewhere (R28, R41). -/
def unlistedByte (font : Vector Byte 80) (a : Nat) : Byte :=
  if h : 0x050 ≤ a ∧ a < 0x0A0 then font[a - 0x050]'(by omega) else 0x00#8

/-- The byte at an address (R50): the latest write to it, else the reset contents. -/
def Memory.read (font : Vector Byte 80) : Memory → Nat → Byte
  | [], a => unlistedByte font a
  | (k, c) :: rest, a => if k = a then c else Memory.read font rest a

/-- Put a pair at its place in the rising list, replacing an entry of the same address. -/
def Memory.insert (a : Nat) (b : Byte) : Memory → Memory
  | [] => [(a, b)]
  | (k, c) :: rest =>
    if a < k then (a, b) :: (k, c) :: rest
    else if a = k then (a, b) :: rest
    else (k, c) :: Memory.insert a b rest

/-- Drop every entry of an address. -/
def Memory.erase (a : Nat) : Memory → Memory
  | [] => []
  | (k, c) :: rest => if k = a then Memory.erase a rest else (k, c) :: Memory.erase a rest

/-- Write one byte, keeping the canonical form: writing the reset contents removes the entry (R49: exactly the byte
addressed changes). -/
def Memory.write (font : Vector Byte 80) (m : Memory) (a : Nat) (b : Byte) : Memory :=
  if b = unlistedByte font a then Memory.erase a m else Memory.insert a b m

/-- Write consecutive bytes at ascending addresses (R43). -/
def Memory.writeBytes (font : Vector Byte 80) (m : Memory) (a : Nat) : List Byte → Memory
  | [] => m
  | b :: rest => Memory.writeBytes font (Memory.write font m a b) (a + 1) rest

/-- The canonical form: addresses strictly rising and inside MEM, no entry equal to the reset contents. -/
abbrev Memory.wf (font : Vector Byte 80) (m : Memory) : Prop :=
  m.Pairwise (fun c d => c.1 < d.1) ∧ ∀ c ∈ m, c.1 < 4096 ∧ c.2 ≠ unlistedByte font c.1

/-- `MEM[a]`. Handlers check their range first (R56), so the address is then below 4096. -/
def State.readByte (s : State) (a : Nat) : Byte := Memory.read s.font s.mem a

/-- `MEM[a] <- b`. -/
def State.writeByte (s : State) (a : Nat) (b : Byte) : State := { s with mem := Memory.write s.font s.mem a b }

/-- `MEM[a], MEM[a+1], … <- bytes`. -/
def State.writeBytes (s : State) (a : Nat) (bytes : List Byte) : State :=
  { s with mem := Memory.writeBytes s.font s.mem a bytes }

/-- The `n` bytes at `a, a+1, …` in address order (R43). -/
def State.readBytes (s : State) (a n : Nat) : List Byte := (List.range n).map fun k => s.readByte (a + k)

/-! ## Registers, stack, timers, keys, framebuffer -/

/-- `V[x]`. -/
def State.getV (s : State) (x : Reg) : Byte := s.v[x]

/-- `V[x] <- b`. -/
def State.setV (s : State) (x : Reg) (b : Byte) : State := { s with v := s.v.set x b }

/-- VF is `V[15]` (R11). -/
def vf : Reg := 15

/-- `PC <- a`. -/
def State.setPc (s : State) (a : Word) : State := { s with pc := a }

/-- `I <- a`. -/
def State.setI (s : State) (a : Word) : State := { s with ireg := a }

/-- `DT <- b`. -/
def State.setDt (s : State) (b : Byte) : State := { s with dt := b }

/-- `ST <- b`. -/
def State.setSt (s : State) (b : Byte) : State := { s with st := b }

/-- `FB <- f`. -/
def State.setFb (s : State) (f : Framebuffer) : State := { s with fb := f }

/-- `KEY[k] <- b`. -/
def State.setKey (s : State) (k : Fin 16) (b : Bool) : State := { s with key := s.key.set k b }

/-- The free byte of this STEP is used up (R111, log 1). -/
def State.nextDraw (s : State) : State := { s with draws := s.draws + 1 }

/-- `STACK[SP] <- a; SP <- SP + 1`, for SP below 16 (R92, D18). -/
def State.push (s : State) (a : Word) (h : s.sp.val < 16) : State :=
  { s with stack := s.stack.set s.sp.val a, sp := ⟨s.sp.val + 1, by omega⟩ }

/-- `SP <- SP - 1; PC <- STACK[SP]`, for SP above 0; the slot keeps its value (R94, R27, D18). -/
def State.popToPc (s : State) (h : 0 < s.sp.val) : State :=
  { s with sp := ⟨s.sp.val - 1, by omega⟩, pc := s.stack[s.sp.val - 1]'(by omega) }

/-- The cell at column `cx`, row `cy`, lit or not: `FB[cy * 64 + cx]` (R130). -/
def Framebuffer.cell (f : Framebuffer) (cx : Fin 64) (cy : Fin 32) : Bool := f[cy].getLsbD cx.val

/-- `FB[i]`, the cells numbered row by row (R130). -/
def Framebuffer.cellAt (f : Framebuffer) (i : Fin 2048) : Bool :=
  Framebuffer.cell f ⟨i.val % 64, by omega⟩ ⟨i.val / 64, by omega⟩

/-- Toggle one cell: `FB[idx] <- FB[idx] ^ 1` (R24). -/
def Framebuffer.toggle (f : Framebuffer) (cx : Fin 64) (cy : Fin 32) : Framebuffer :=
  f.set cy (f[cy] ^^^ BitVec.twoPow 64 cx.val)

/-- Every cell unlit (R131). -/
def Framebuffer.clear : Framebuffer := Vector.replicate 32 0#64

/-! ## Errors (R150, R159) -/

/-- `raise <Error>`: the transaction ends with the error reported and the block in the state `s` (R159: nothing is saved,
no vector, no mode change). A handler raises from the state it was given, PC advanced and OPCODE set, before its first
write (R89). -/
def raise (e : State → Fault) (s : State) : Result := .fault (e s)

/-- The range check of R46 and R47, made once before any change: the range of `count` bytes at `first` must lie in MEM;
else BoundsError with the lowest address above 0xFFF (R48). Addresses are integers, never reduced (R45); an empty range is
in bounds (R132). -/
def guardRange (first count : Nat) (s : State) (k : Result) : Result :=
  if 0 < count ∧ 0xFFF < first + count - 1 then raise (.boundsError (max first 0x1000)) s else k

/-- The state an error left the block in (R150). -/
def Fault.after : Fault → State
  | .capacityError _ s => s
  | .stackOverflow _ s => s
  | .stackUnderflow s => s
  | .boundsError _ s => s

/-- The error code of R150. -/
def Fault.code : Fault → BitVec 3
  | .capacityError _ _ => 1#3
  | .stackOverflow _ _ => 2#3
  | .stackUnderflow _ => 3#3
  | .boundsError _ _ => 4#3

/-- The info value of R150; StackUnderflow has none. -/
def Fault.info : Fault → Option Nat
  | .capacityError n _ => some n
  | .stackOverflow t _ => some t.toNat
  | .stackUnderflow _ => none
  | .boundsError a _ => some a

end Sys2Proof.Machine
end

