-- ==== Sys2Proof/Machine/Operands.lean ====
section
/-! DEFINITION. The operand forms: immediates widened with zeros (`30_encoding.md` R63), the address I + k
(`43_index_and_memory.md` R126), the skip (`41_control_flow.md` R90), the key index (`45_keypad_and_timers.md` R140), the
glyph address (R122), the decimal digits (R123) and the scan for a pressed key (R142). -/

namespace Sys2Proof.Machine

/-- `zext_16(nnn)` (R63). -/
def addrOfImm (nnn : Addr12) : Word := nnn.zeroExtend 16

/-- `zext_16` of a byte (R63, R93, R121). -/
def wordOfByte (b : Byte) : Word := b.zeroExtend 16

/-- The address of a transfer's first element: the integer value of I (R126). -/
def State.base (s : State) : Nat := s.ireg.toNat

/-- Skip when the condition holds: the advanced PC moves past the next instruction (R90). -/
def skipIf (c : Bool) (s : State) : Result := .next (if c then s.setPc (s.pc + 2#16) else s)

/-- Read the key that `b` names and go on with it; BoundsError(b) when `b > 15`, the index is not masked (R140, D6). -/
def withKey (b : Byte) (s : State) (k : Bool → Result) : Result :=
  if h : b.toNat < 16 then k s.key[b.toNat] else raise (.boundsError b.toNat) s

/-- The smallest index of a pressed key: "scan keys in ascending index order" (R142). -/
def lowestKey (key : Vector Bool 16) : Option (Fin 16) := (List.finRange 16).find? fun k => key[k]

/-- `0x0050 + 5 * Vx`, the whole byte, no mask (R122, D7). -/
def glyphAddr (b : Byte) : Word := 0x0050#16 + 5#16 * wordOfByte b

/-- Hundreds, tens, ones of a byte (R123). -/
def decimalDigits (b : Byte) : List Byte :=
  [BitVec.ofNat 8 (b.toNat / 100), BitVec.ofNat 8 (b.toNat / 10 % 10), BitVec.ofNat 8 (b.toNat % 10)]

/-- V0 to Vx, inclusive, in index order (R124). -/
def State.regsTo (s : State) (x : Reg) : List Byte := (s.v.toList).take (x.val + 1)

/-- `V[i] <- MEM[a + i]` for i from 0 to x, inclusive; the registers above Vx keep their values (R125). -/
def State.loadRegs (s : State) (x : Reg) (a : Nat) : State :=
  { s with v := Vector.ofFn fun i : Fin 16 => if i.val ≤ x.val then s.readByte (a + i.val) else s.v[i] }

end Sys2Proof.Machine
end

