-- ==== Sys2Proof/Machine/Flags.lean ====
section
/-! DEFINITION. Every flag computation of the block: the only flag is the value 0 or 1 that six instructions leave in VF
(`10_state.md` R11, R16), computed from the operands before any write (R87, R112). The collision flag is computed with the
drawing in `Display.lean` (R132). -/

namespace Sys2Proof.Machine

/-- VF holds 0x01 or 0x00 (R11). -/
def flagByte (c : Bool) : Byte := if c then 0x01#8 else 0x00#8

/-- Carry of 8xy4: the 9-bit sum exceeds 255 (R106). -/
def carry (a b : Byte) : Bool := decide (255 < a.toNat + b.toNat)

/-- No borrow of `a - b`: `a ≥ b`, unsigned (R107, R109). -/
def noBorrow (a b : Byte) : Bool := decide (b.toNat ≤ a.toNat)

/-- The bit a right shift by one shifts out: bit 0 of the VALUE (R108, C1). -/
def bitOutRight (a : Byte) : Bool := a.getLsbD 0

/-- The bit a left shift by one shifts out: bit 7 of the VALUE (R110, C1). -/
def bitOutLeft (a : Byte) : Bool := a.getLsbD 7

/-- Write the result to Vx first and the flag to VF second, so that for x = F the flag remains (R88, D4). -/
def writeResultThenFlag (x : Reg) (r : Byte) (f : Bool) (s : State) : Result :=
  .next ((s.setV x r).setV vf (flagByte f))

end Sys2Proof.Machine
end

