-- ==== Sys2Proof/Machine/Alu.lean ====
section
/-! DEFINITION. Register load, the 8-bit ALU and the random byte (`42_load_and_alu.md`). All arithmetic is unsigned and
wraps modulo 256 (R112). -/

namespace Sys2Proof.Machine

/-- 6xnn (R100). -/
def execLdImm (x : Reg) (nn : Byte) (s : State) : Result := .next (s.setV x nn)

/-- 7xnn (R101): no carry is recorded. -/
def execAddImm (x : Reg) (nn : Byte) (s : State) : Result := .next (s.setV x (s.getV x + nn))

/-- 8xy0 (R102). -/
def execLdReg (x y : Reg) (s : State) : Result := .next (s.setV x (s.getV y))

/-- 8xy1 (R103): VF is not changed. -/
def execOrReg (x y : Reg) (s : State) : Result := .next (s.setV x (s.getV x ||| s.getV y))

/-- 8xy2 (R104): VF is not changed. -/
def execAndReg (x y : Reg) (s : State) : Result := .next (s.setV x (s.getV x &&& s.getV y))

/-- 8xy3 (R105): VF is not changed. -/
def execXorReg (x y : Reg) (s : State) : Result := .next (s.setV x (s.getV x ^^^ s.getV y))

/-- 8xy4 (R106): VF := carry. -/
def execAddReg (x y : Reg) (s : State) : Result :=
  writeResultThenFlag x (s.getV x + s.getV y) (carry (s.getV x) (s.getV y)) s

/-- 8xy5 (R107): VF := Vx ≥ Vy. -/
def execSub (x y : Reg) (s : State) : Result :=
  writeResultThenFlag x (s.getV x - s.getV y) (noBorrow (s.getV x) (s.getV y)) s

/-- 8xy6 (R108): a logical shift of Vx; y is ignored (R73). -/
def execShr (x _y : Reg) (s : State) : Result := writeResultThenFlag x (s.getV x >>> 1) (bitOutRight (s.getV x)) s

/-- 8xy7 (R109): Vy - Vx, VF := Vy ≥ Vx. -/
def execSubn (x y : Reg) (s : State) : Result :=
  writeResultThenFlag x (s.getV y - s.getV x) (noBorrow (s.getV y) (s.getV x)) s

/-- 8xyE (R110): a shift of Vx; y is ignored (R73). -/
def execShl (x _y : Reg) (s : State) : Result := writeResultThenFlag x (s.getV x <<< 1) (bitOutLeft (s.getV x)) s

/-- Cxnn (R111): `V[x] <- rnd & nn`, rnd the free byte of this draw (log 1). -/
def execRnd (x : Reg) (nn : Byte) (s : State) : Result := .next ((s.setV x (Config.rnd s.draws &&& nn)).nextDraw)

end Sys2Proof.Machine
end

