-- ==== Sys2Proof/Machine/Control.lean ====
section
/-! DEFINITION. Control transfer (`41_control_flow.md`) and the no-op of an unrecognised word (`40_step_cycle.md` R86). In
every meaning PC is the already advanced value (R83). -/

namespace Sys2Proof.Machine

/-- 00EE (R94): StackUnderflow when SP = 0, else pop into PC. -/
def execRet (s : State) : Result :=
  if h : 0 < s.sp.val then .next (s.popToPc h) else raise .stackUnderflow s

/-- 1nnn (R91): `PC <- nnn`. -/
def execJp (nnn : Addr12) (s : State) : Result := .next (s.setPc (addrOfImm nnn))

/-- 2nnn (R92): StackOverflow when SP = 16, else push the advanced PC and jump. -/
def execCall (nnn : Addr12) (s : State) : Result :=
  if h : s.sp.val < 16 then .next ((s.push s.pc h).setPc (addrOfImm nnn)) else raise (.stackOverflow nnn) s

/-- Bnnn (R93): `PC <- nnn + V0`, no mask. -/
def execJpV0 (nnn : Addr12) (s : State) : Result := .next (s.setPc (addrOfImm nnn + wordOfByte (s.getV 0)))

/-- 3xnn (R95): skip if `Vx == nn`. -/
def execSeImm (x : Reg) (nn : Byte) (s : State) : Result := skipIf (s.getV x == nn) s

/-- 4xnn (R96): skip if `Vx != nn`. -/
def execSneImm (x : Reg) (nn : Byte) (s : State) : Result := skipIf (s.getV x != nn) s

/-- 5xy0 (R97): skip if `Vx == Vy`. -/
def execSeReg (x y : Reg) (s : State) : Result := skipIf (s.getV x == s.getV y) s

/-- 9xy0 (R98): skip if `Vx != Vy`. -/
def execSneReg (x y : Reg) (s : State) : Result := skipIf (s.getV x != s.getV y) s

/-- UNDEF (R86): nothing; PC has already advanced. -/
def execUndef (_op : Word) (s : State) : Result := .next s

end Sys2Proof.Machine
end

