-- ==== Sys2Proof/Machine/Display.lean ====
section
/-! DEFINITION. Clear and draw (`44_display.md`): the loop of R132 over rows and columns, each set bit of a sprite byte
toggling one cell, with the collision remembered. -/

namespace Sys2Proof.Machine

/-- 00E0 (R131): every cell unlit; VF is not written. -/
def execCls (s : State) : Result := .next (s.setFb Framebuffer.clear)

/-- The framebuffer and the collision seen so far, the two variables of R132's loop. -/
abbrev Drawing := Framebuffer × Bool

/-- The column a sprite pixel falls on: `(vx + col) mod 64` (R132: every pixel wraps on its own). -/
def pixelColumn (vx : Byte) (col : Nat) : Fin 64 := ⟨(vx.toNat + col) % 64, by omega⟩

/-- The row a sprite pixel falls on: `(vy + row) mod 32` (R132). -/
def pixelRow (vy : Byte) (row : Nat) : Fin 32 := ⟨(vy.toNat + row) % 32, by omega⟩

/-- Whether the sprite byte has a 1 at a column: bit 7 is column 0 (R133, D5). -/
def spriteBit (b : Byte) (col : Nat) : Bool := b.getLsbD (7 - col)

/-- One pass of R132's inner loop. -/
def drawPixel (vx vy : Byte) (row : Nat) (b : Byte) (d : Drawing) (col : Nat) : Drawing :=
  if spriteBit b col then
    (Framebuffer.toggle d.1 (pixelColumn vx col) (pixelRow vy row),
      d.2 || Framebuffer.cell d.1 (pixelColumn vx col) (pixelRow vy row))
  else d

/-- One sprite row: columns 0 to 7. -/
def drawRow (vx vy : Byte) (row : Nat) (b : Byte) (d : Drawing) : Drawing :=
  (List.range 8).foldl (drawPixel vx vy row b) d

/-- The sprite rows from `row` on. -/
def drawRows (vx vy : Byte) : Nat → List Byte → Drawing → Drawing
  | _, [], d => d
  | row, b :: rest, d => drawRows vx vy (row + 1) rest (drawRow vx vy row b d)

/-- Dxyn (R132): the coordinates are those held before VF is reset (R87, D3); the sprite's range is checked before any
write; VF ends as the collision flag. -/
def execDrw (x y : Reg) (n : Nibble) (s : State) : Result :=
  let d := drawRows (s.getV x) (s.getV y) 0 (s.readBytes s.base n.toNat) (s.fb, false)
  guardRange s.base n.toNat s (.next ((s.setFb d.1).setV vf (flagByte d.2)))

end Sys2Proof.Machine
end

