-- ==== Sys2Proof/Machine/Index.lean ====
section
/-! DEFINITION. The index register and the memory transfers (`43_index_and_memory.md`). I is a pure base, never modified by
a transfer (R126); the whole range is checked before the first write (R46, R47). -/

namespace Sys2Proof.Machine

/-- Annn (R120). -/
def execLdI (nnn : Addr12) (s : State) : Result := .next (s.setI (addrOfImm nnn))

/-- Fx1E (R121): modulo 65536, no flag (D8). -/
def execAddI (x : Reg) (s : State) : Result := .next (s.setI (s.ireg + wordOfByte (s.getV x)))

/-- Fx29 (R122). -/
def execLdF (x : Reg) (s : State) : Result := .next (s.setI (glyphAddr (s.getV x)))

/-- Fx33 (R123): hundreds, tens, ones at I, I+1, I+2. -/
def execBcd (x : Reg) (s : State) : Result :=
  guardRange s.base 3 s (.next (s.writeBytes s.base (decimalDigits (s.getV x))))

/-- Fx55 (R124): V0 to Vx at I upward. -/
def execStRegs (x : Reg) (s : State) : Result :=
  guardRange s.base (x.val + 1) s (.next (s.writeBytes s.base (s.regsTo x)))

/-- Fx65 (R125): V0 to Vx from I upward. -/
def execLdRegs (x : Reg) (s : State) : Result :=
  guardRange s.base (x.val + 1) s (.next (s.loadRegs x s.base))

end Sys2Proof.Machine
end

