-- ==== Sys2Proof/Machine/Keypad.lean ====
section
/-! DEFINITION. Keypad queries and timer access (`45_keypad_and_timers.md`). No instruction writes KEY (R25, C5). -/

namespace Sys2Proof.Machine

/-- Ex9E (R140): skip if the key Vx is pressed. -/
def execSkp (x : Reg) (s : State) : Result := withKey (s.getV x) s fun pressed => skipIf pressed s

/-- ExA1 (R141): skip if the key Vx is not pressed. -/
def execSknp (x : Reg) (s : State) : Result := withKey (s.getV x) s fun pressed => skipIf (!pressed) s

/-- Fx07 (R143). -/
def execLdVxDt (x : Reg) (s : State) : Result := .next (s.setV x s.dt)

/-- Fx0A (R142): the smallest pressed key into Vx, or PC back to this instruction. -/
def execLdVxK (x : Reg) (s : State) : Result :=
  match lowestKey s.key with
  | some k => .next (s.setV x (BitVec.ofNat 8 k.val))
  | none => .next (s.setPc (s.pc - 2#16))

/-- Fx15 (R144). -/
def execLdDtVx (x : Reg) (s : State) : Result := .next (s.setDt (s.getV x))

/-- Fx18 (R145). -/
def execLdStVx (x : Reg) (s : State) : Result := .next (s.setSt (s.getV x))

end Sys2Proof.Machine
end

