-- ==== Sys2Proof/Machine/Transactions.lean ====
section
/-! DEFINITION. The host's transactions (`00_scope.md` R8): fetch and STEP (`40_step_cycle.md`), TICK and KEYSET
(`60_exceptions.md`), RESET and LOAD (`70_reset_and_hazards.md`), FBREAD (`44_display.md`), and what the host sees
(`10_state.md` R30, R31). Each is atomic; none happens inside another (R158, R187). -/

namespace Sys2Proof.Machine

/-! ## STEP (R80) -/

/-- The opcode at PC: `MEM[PC] ++ MEM[PC+1]`, as the bytes are at this moment (R82). -/
def State.fetchWord (s : State) : Word := wordOfBytes (s.readByte s.pc.toNat) (s.readByte (s.pc.toNat + 1))

/-- `OPCODE <- op; PC <- PC + 2` (R80, R83): the state a handler starts from. The block has now been launched (log 4). -/
def State.fetched (s : State) (op : Word) : State :=
  { s with opcode := op, pc := s.pc + 2#16, launched := true }

/-- One STEP (R80): the fetch bound first, covering both bytes, with nothing changed when it fails (R81). -/
def stepInstr (s : State) : Result :=
  guardRange s.pc.toNat 2 s (exec (decode s.fetchWord) (s.fetched s.fetchWord))

/-! ## The other transactions -/

/-- "Decremented by exactly one, floored at zero" (R163). -/
def tickTimer (b : Byte) : Byte := if b = 0x00#8 then b else b - 1#8

/-- TICK (R163): the two timers, independently. -/
def tick (s : State) : State := (s.setDt (tickTimer s.dt)).setSt (tickTimer s.st)

/-- RESET (R180): every piece of state at its reset value, FONT pre-loaded; the host's schedule and the draws go on. -/
def hostReset (s : State) : State := State.resetWith s.font s.draws s.schedule

/-- LOAD (R182): all or nothing, CapacityError(L) when the image does not fit; defined only before the first STEP and
once (R183, log 4). -/
def load (bytes : List Byte) (s : State) : Result :=
  if s.launched then .refused .loadAfterLaunch
  else if 4096 < 0x200 + bytes.length then raise (.capacityError bytes.length) s
  else .next { s.writeBytes 0x200 bytes with launched := true }

/-- Carry out one transaction (R8). -/
def transact (t : Transaction) (s : State) : Result :=
  match t with
  | .reset => .next (hostReset s)
  | .load bytes => load bytes s
  | .step => stepInstr s
  | .tick => .next (tick s)
  | .keySet k b => .next (s.setKey k b)
  | .fbRead => .next s

/-- What the host issues next: the head of the schedule, a STEP when it is empty (log 3). -/
def State.nextTransaction (s : State) : Transaction := s.schedule.headD .step

/-- The schedule after its head has been issued. -/
def State.popSchedule (s : State) : State := { s with schedule := s.schedule.tail }

/-- The launch state of R185: reset with a FONT, a schedule, and the image copied in. -/
def launch (font : Vector Byte 80) (rom : List Byte) (schedule : List Transaction) : Result :=
  load rom (State.resetWith font 0 schedule)

/-! ## What the host sees and does (R30, R31, R160) -/

/-- What the host may observe between transactions: the 2048 cells (FBREAD, R130) and ST (R30, D13). -/
structure HostView where
  fb : Framebuffer
  st : Byte
  deriving DecidableEq, Repr

/-- The host's observation of a state. -/
def State.hostView (s : State) : HostView := ⟨s.fb, s.st⟩

/-- The error code of the transaction just finished, 0 = none (R31, R150); a refused transaction has none. -/
def errOut : Result → Option (BitVec 3)
  | .next _ => some 0#3
  | .fault f => some f.code
  | .refused _ => none

/-- The state from which the host's next transaction starts: after an error it is the post-state of R150, so a host that
skips goes on from here (R160, U18). -/
def resume : Result → Option State
  | .next s => some s
  | .fault f => some f.after
  | .refused _ => none

end Sys2Proof.Machine
end

