-- ==== Sys2Proof/Machine/Step.lean ====
section
/-! DEFINITION. One step of the machine: the next transaction of the host's schedule (log 3), and the host's probe. -/

namespace Sys2Proof.Machine

/-- One transaction: the one the schedule names, a STEP when the schedule is empty. -/
def step (s : State) : Host.Outcome State Fault Refusal := transact s.nextTransaction s.popSchedule

/-- `s` with the instruction of bits `w` where the next step fetches it: high byte at PC, low byte at PC + 1 (R42). So that
the very next step is that fetch, a STEP is put in front when the host's next transaction is another, and a PC from which
no fetch is possible (above 0xFFE, R81) is put at the entry point 0x200. -/
def State.withFetchWord (s : State) (nbits w : Nat) : State :=
  let op := BitVec.ofNat 16 (w % 2 ^ nbits)
  let at0 : Word := if 0xFFE < s.pc.toNat then 0x0200#16 else s.pc
  let sched := if s.nextTransaction = .step then s.schedule else .step :: s.schedule
  { s.writeBytes at0.toNat [op.extractLsb' 8 8, op.extractLsb' 0 8] with pc := at0, schedule := sched }

end Sys2Proof.Machine
end

