-- ==== Sys2Proof/WellFormed.lean ====
section
/-! DEFINITION. When an `Instr` stands for a word of the machine. Field ranges are carried by the types; the one check left
is that UNDEF is the fallback of `30_encoding.md` R64: its word matches none of the 34 rows (R71). -/

namespace Sys2Proof

/-- An instruction is well formed when it is one of the 34 recognised ones, or UNDEF of a word no row of R64 matches. -/
def WellFormed : Instr → Bool
  | .undef op => !recognised op
  | .cls | .ret | .jp _ | .call _ | .seImm _ _ | .sneImm _ _ | .seReg _ _ | .ldImm _ _ | .addImm _ _
  | .ldReg _ _ | .orReg _ _ | .andReg _ _ | .xorReg _ _ | .addReg _ _ | .sub _ _ | .shr _ _ | .subn _ _
  | .shl _ _ | .sneReg _ _ | .ldI _ | .jpV0 _ | .rnd _ _ | .drw _ _ _ | .skp _ | .sknp _ | .ldVxDt _
  | .ldVxK _ | .ldDtVx _ | .ldStVx _ | .addI _ | .ldF _ | .bcd _ | .stRegs _ | .ldRegs _ => true

end Sys2Proof
end

