-- ==== Sys2Proof/Safety.lean ====
section
/-! DEFINITION. The terms in which claims speak of safe runs: the invariant of every reachable state, the errors a
transaction may raise, the suggested end of a run, and what it means that a piece of state is unchanged. -/

namespace Sys2Proof.Machine

/-! ## The invariant -/

/-- A stack slot holds 0x0000 or a value 2nnn pushed, 0x0002 to 0x1000 (R22, C11); a slot below SP was pushed. -/
def StackValuesLegal (s : State) : Prop :=
  ∀ k : Fin 16, s.stack[k].toNat ≤ 0x1000 ∧ s.stack[k].toNat ≠ 1 ∧ (k.val < s.sp.val → 2 ≤ s.stack[k].toNat)

/-- PC never exceeds 0x10FE (R15, R22). -/
def PcReachable (s : State) : Prop := s.pc.toNat ≤ 0x10FE

/-- The invariant of the machine: memory canonical, PC and the stack slots in their ranges. -/
def Inv (s : State) : Prop := Memory.wf s.font s.mem ∧ PcReachable s ∧ StackValuesLegal s

/-! ## Errors and refusals -/

/-- No error and no refusal: the transaction completes. -/
def Completes (r : Result) : Prop := ∃ t, r = .next t

/-- A run of `k` transactions in which no error is raised and none is refused (R161: a claim takes "no error raised" as a
premise or proves it). -/
def SafeRun (k : Nat) (s : State) : Prop := Completes (Host.Core.run Sys2Proof.core k s)

/-! ## The end of a run -/

/-- The suggested "program has finished" state (R190, D17): PC at a 1nnn whose target is its own address. -/
def Finished (s : State) : Prop := s.pc.toNat ≤ 0xFFE ∧ s.fetchWord = 0x1000#16 ||| s.pc

/-! ## Unchanged state -/

/-- The pieces of State, the model's own among them. -/
inductive Piece where
  | regs | index | pc | sp | stack | dt | st | fb | key | opcode | mem | font | schedule | draws | launched
  deriving DecidableEq, Repr

/-- A piece is the same in two states; memory through the read of every address. -/
def SamePiece (s t : State) : Piece → Prop
  | .regs => ∀ r, t.getV r = s.getV r
  | .index => t.ireg = s.ireg
  | .pc => t.pc = s.pc
  | .sp => t.sp = s.sp
  | .stack => t.stack = s.stack
  | .dt => t.dt = s.dt
  | .st => t.st = s.st
  | .fb => t.fb = s.fb
  | .key => t.key = s.key
  | .opcode => t.opcode = s.opcode
  | .mem => ∀ a, t.readByte a = s.readByte a
  | .font => t.font = s.font
  | .schedule => t.schedule = s.schedule
  | .draws => t.draws = s.draws
  | .launched => t.launched = s.launched

/-- Every piece outside the list is the same in both states. -/
def SameExcept (ps : List Piece) (s t : State) : Prop := ∀ p, p ∉ ps → SamePiece s t p

/-- Every V register outside the list is the same in both states. -/
def RegsExcept (rs : List Reg) (s t : State) : Prop := ∀ r, r ∉ rs → t.getV r = s.getV r

/-! ## The tables of `10_state.md` and `60_exceptions.md` as functions -/

/-- The registers V0 to Vx. -/
def regsUpTo (x : Reg) : List Reg := (List.finRange 16).filter fun r => decide (r ≤ x)

/-- R12, column "reads": the V registers whose old value an instruction uses. -/
def readsOf : Instr → List Reg
  | .seImm x _ | .sneImm x _ | .addImm x _ => [x]
  | .seReg x y | .sneReg x y => [x, y]
  | .ldReg _ y => [y]
  | .orReg x y | .andReg x y | .xorReg x y | .addReg x y | .sub x y | .subn x y => [x, y]
  | .shr x _ | .shl x _ => [x]
  | .jpV0 _ => [0]
  | .drw x y _ => [x, y]
  | .skp x | .sknp x => [x]
  | .ldDtVx x | .ldStVx x | .addI x | .ldF x | .bcd x => [x]
  | .stRegs x => regsUpTo x
  | .ldImm _ _ | .rnd _ _ | .ldVxDt _ | .ldVxK _ | .ldRegs _ => []
  | .cls | .ret | .jp _ | .call _ | .ldI _ | .undef _ => []

/-- R12, column "writes": the V registers an instruction may change, VF among them where it is a flag (R11). -/
def writesOf : Instr → List Reg
  | .ldImm x _ | .addImm x _ | .ldReg x _ | .orReg x _ | .andReg x _ | .xorReg x _ | .rnd x _ => [x]
  | .addReg x _ | .sub x _ | .subn x _ | .shr x _ | .shl x _ => [x, vf]
  | .drw _ _ _ => [vf]
  | .ldVxDt x | .ldVxK x => [x]
  | .ldRegs x => regsUpTo x
  | .seImm _ _ | .sneImm _ _ | .seReg _ _ | .sneReg _ _ | .jpV0 _ | .skp _ | .sknp _ => []
  | .ldDtVx _ | .ldStVx _ | .addI _ | .ldF _ | .bcd _ | .stRegs _ => []
  | .cls | .ret | .jp _ | .call _ | .ldI _ | .undef _ => []

/-- R11: the instructions that write VF as a side effect. -/
def writesFlag : Instr → Bool
  | .addReg _ _ | .sub _ _ | .subn _ _ | .shr _ _ | .shl _ _ | .drw _ _ _ => true
  | _ => false

/-- The pieces of state an instruction's handler may change: R12 for the registers, R13, R17 to R21 and R26 for the
control registers, R49 for MEM, R130 for FB, R25 for KEY (never). -/
def touched : Instr → List Piece
  | .cls => [.fb]
  | .ret => [.pc, .sp]
  | .jp _ | .jpV0 _ | .seImm _ _ | .sneImm _ _ | .seReg _ _ | .sneReg _ _ | .skp _ | .sknp _ => [.pc]
  | .call _ => [.pc, .sp, .stack]
  | .ldImm _ _ | .addImm _ _ | .ldReg _ _ | .orReg _ _ | .andReg _ _ | .xorReg _ _ | .addReg _ _ | .sub _ _
  | .shr _ _ | .subn _ _ | .shl _ _ | .ldVxDt _ | .ldRegs _ => [.regs]
  | .ldI _ | .addI _ | .ldF _ => [.index]
  | .rnd _ _ => [.regs, .draws]
  | .drw _ _ _ => [.regs, .fb]
  | .ldVxK _ => [.regs, .pc]
  | .ldDtVx _ => [.dt]
  | .ldStVx _ => [.st]
  | .bcd _ | .stRegs _ => [.mem]
  | .undef _ => []

/-- R14: PC after a STEP that fetched `i` at `p = s.pc`, error or not. -/
def pcAfter (i : Instr) (s : State) : Nat :=
  let p := s.pc.toNat
  match i with
  | .jp nnn => nnn.toNat
  | .call nnn => if s.sp.val = 16 then p + 2 else nnn.toNat
  | .ret => if h : 0 < s.sp.val then (s.stack[s.sp.val - 1]'(by omega)).toNat else p + 2
  | .jpV0 nnn => nnn.toNat + (s.getV 0).toNat
  | .seImm x nn => if s.getV x = nn then p + 4 else p + 2
  | .sneImm x nn => if s.getV x ≠ nn then p + 4 else p + 2
  | .seReg x y => if s.getV x = s.getV y then p + 4 else p + 2
  | .sneReg x y => if s.getV x ≠ s.getV y then p + 4 else p + 2
  | .skp x => if h : (s.getV x).toNat < 16 then (if s.key[(s.getV x).toNat] then p + 4 else p + 2) else p + 2
  | .sknp x => if h : (s.getV x).toNat < 16 then (if s.key[(s.getV x).toNat] then p + 2 else p + 4) else p + 2
  | .ldVxK _ => if ∃ k : Fin 16, s.key[k] = true then p + 2 else p
  | _ => p + 2

/-- The row of R150 for a transfer of `count` bytes at I. -/
def rangeError (count : Nat) (s : State) : Option Fault :=
  if 1 ≤ count ∧ 0xFFF < s.ireg.toNat + count - 1 then some (.boundsError (max s.ireg.toNat 0x1000) s) else none

/-- The rows of R150 for a handler started in the state `s`: the error it raises, if any. -/
def expectedError (i : Instr) (s : State) : Option Fault :=
  match i with
  | .call nnn => if s.sp.val = 16 then some (.stackOverflow nnn s) else none
  | .ret => if s.sp.val = 0 then some (.stackUnderflow s) else none
  | .drw _ _ n => rangeError n.toNat s
  | .bcd _ => rangeError 3 s
  | .stRegs x | .ldRegs x => rangeError (x.val + 1) s
  | .skp x | .sknp x => if 15 < (s.getV x).toNat then some (.boundsError (s.getV x).toNat s) else none
  | _ => none

/-- Some 1 bit of the `n`-row sprite at I falls on the cell (cx, cy), with its corner at (vx, vy) (R132, R133). -/
def SpriteCovers (s : State) (vx vy : Byte) (n : Nat) (cx : Fin 64) (cy : Fin 32) : Prop :=
  ∃ row col, row < n ∧ col < 8 ∧ (s.readByte (s.ireg.toNat + row)).getLsbD (7 - col) = true ∧
    (vx.toNat + col) % 64 = cx.val ∧ (vy.toNat + row) % 32 = cy.val

end Sys2Proof.Machine
end

