-- ==== Sys2Proof/Certificates/Slice0/Obligations.lean ====
section
/-! DEFINITION. The statements for the provers. Each formalises rules of `spec/`, named in its docstring. A statement about
an instruction is about `exec`, whose state is the one a handler starts from: PC already advanced by 2 (R83). Where a rule of
`spec/` is itself marked as the spec's own decision (D<n>) or derivation, the docstring says so; the model follows it
(log 6). -/

open Sys2Proof Sys2Proof.Machine

/-! ## Encoding -/

/-- R60 to R64: laid out high byte first, every well-formed instruction decodes to itself, whatever follows it. -/
def Obligations.DecodeOfEncode : Prop :=
  ∀ (i : Instr) (rest : List Byte), WellFormed i = true → decodeBytes (encodeBytes i ++ rest) = .ok (i, rest)

/-- R72, R73: every word decodes to a well-formed instruction that encodes back to the word. -/
def Obligations.EncodeOfDecode : Prop :=
  ∀ op : Word, WellFormed (decode op) = true ∧ encode (decode op) = op

/-- R64, R71, R72: a word matches a row of the opcode map exactly when the decoder answers that row's instruction, so no
two rows match one word; it decodes to UNDEF of itself exactly when no row matches. -/
def Obligations.EveryWordHasItsRow : Prop :=
  ∀ op : Word,
    (∀ r ∈ opcodeTable, (r.matchesWord op = true ↔ r.mnemonic = (decode op).mnemonic)) ∧
      (decode op = .undef op ↔ ∀ r ∈ opcodeTable, r.matchesWord op = false)

/-- R64: some words written out from the patterns. That 0x5121 is UNDEF, a 5xyN with N not 0, is the spec's own decision
D15 (R70, log 6); that the instruction of 0x831E keeps the field y it ignores is the model's form (log 8). -/
def Obligations.SampleWordsDecode : Prop :=
  decode 0x00E0#16 = .cls ∧ decode 0x2ABC#16 = .call 0xABC#12 ∧ decode 0x8F14#16 = .addReg 15 1 ∧
    decode 0x831E#16 = .shl 3 1 ∧ decode 0xD7A5#16 = .drw 7 10 5#4 ∧ decode 0xE5A1#16 = .sknp 5 ∧
    decode 0xF265#16 = .ldRegs 2 ∧ decode 0x5121#16 = .undef 0x5121#16

/-! ## The step -/

/-- R8, D22: a step is the transaction at the head of the host's schedule; when the schedule is empty it is a STEP
(the model's choice, log 3). -/
def Obligations.StepIsTheScheduledTransaction : Prop :=
  ∀ s : State,
    (s.schedule = [] → step s = transact .step s) ∧
      ∀ (tr : Transaction) (rest : List Transaction), s.schedule = tr :: rest →
        step s = transact tr { s with schedule := rest }

/-- R82, R83: when the host issues a STEP and the two bytes at PC decode to `i`, the step is `exec i` from the state in
which OPCODE holds the word and PC has advanced by 2 (`launched` and `schedule` are the model's own, log 3 and 4). -/
def Obligations.StepRunsDecodedInstruction : Prop :=
  ∀ (s : State) (i : Instr), s.nextTransaction = .step → s.pc.toNat ≤ 0xFFE →
    decodeBytes [s.readByte s.pc.toNat, s.readByte (s.pc.toNat + 1)] = .ok (i, []) →
    WellFormed i = true ∧
    step s = exec i { s with
      opcode := s.readByte s.pc.toNat ++ s.readByte (s.pc.toNat + 1)
      pc := s.pc + 2#16
      launched := true
      schedule := s.schedule.tail }

/-- R81 (the spec's own decision D10, its info value D11; log 6): a fetch above 0xFFE raises BoundsError and changes nothing
(but the model's own schedule), and after any transaction but RESET the block is still there: PC has not moved. -/
def Obligations.FetchBoundRepeats : Prop :=
  ∀ s : State, 0xFFE < s.pc.toNat →
    (s.nextTransaction = .step → step s = .fault (.boundsError (max s.pc.toNat 0x1000) s.popSchedule)) ∧
    transact .step s = .fault (.boundsError (max s.pc.toNat 0x1000) s) ∧
    ∀ (tr : Transaction) (t : State), tr ≠ .reset → resume (transact tr s) = some t → t.pc = s.pc

/-- R71, R86: a word that matches none of the 34 rows is a no-op: the STEP completes, PC advances by 2, OPCODE holds the
word, everything else is unchanged (`launched` and `schedule` are the model's own). -/
def Obligations.UnrecognisedWordIsNoop : Prop :=
  (∀ (op : Word) (s : State), ∃ t, exec (.undef op) s = .next t ∧ SameExcept [] s t) ∧
  ∀ s : State, s.nextTransaction = .step → s.pc.toNat ≤ 0xFFE →
    (∀ r ∈ opcodeTable, r.matchesWord s.fetchWord = false) →
    ∃ t, step s = .next t ∧ t.pc.toNat = s.pc.toNat + 2 ∧ t.opcode = s.fetchWord ∧
      SameExcept [.pc, .opcode, .launched, .schedule] s t

/-! ## Control transfer -/

/-- R91. -/
def Obligations.JumpSetsPc : Prop :=
  ∀ (nnn : Addr12) (s : State), ∃ t, exec (.jp nnn) s = .next t ∧ t.pc.toNat = nnn.toNat ∧ SameExcept [.pc] s t

/-- R93: no 12-bit mask (the spec's own decision D23, log 6). -/
def Obligations.JumpOffsetAddsV0 : Prop :=
  ∀ (nnn : Addr12) (s : State), ∃ t, exec (.jpV0 nnn) s = .next t ∧
    t.pc.toNat = nnn.toNat + (s.getV 0).toNat ∧ SameExcept [.pc] s t

/-- R92: with room the advanced PC goes to slot SP, SP grows by one and PC is nnn; with SP = 16 it is StackOverflow and
nothing has changed. Slot order, state after the error and info value are the spec's own decisions D18, D10, D11 (log 6). -/
def Obligations.CallPushesOrOverflows : Prop :=
  ∀ (nnn : Addr12) (s : State),
    (s.sp.val < 16 → ∃ t, exec (.call nnn) s = .next t ∧ t.pc.toNat = nnn.toNat ∧ t.sp.val = s.sp.val + 1 ∧
      (∀ k : Fin 16, t.stack[k] = if k.val = s.sp.val then s.pc else s.stack[k]) ∧ SameExcept [.pc, .sp, .stack] s t) ∧
    (s.sp.val = 16 → exec (.call nnn) s = .fault (.stackOverflow nnn s))

/-- R94: with a non-empty stack SP shrinks by one and PC is the slot below the old SP, which keeps its value; with SP = 0
it is StackUnderflow and nothing has changed. Slot order and state after the error are the spec's own decisions D18, D10
(log 6). -/
def Obligations.ReturnPopsOrUnderflows : Prop :=
  ∀ s : State,
    (∀ h : 0 < s.sp.val, ∃ t, exec .ret s = .next t ∧ t.sp.val = s.sp.val - 1 ∧
      t.pc = s.stack[s.sp.val - 1]'(by omega) ∧ SameExcept [.pc, .sp] s t) ∧
    (s.sp.val = 0 → exec .ret s = .fault (.stackUnderflow s))

/-- R95, R96. -/
def Obligations.SkipsOnImmediate : Prop :=
  ∀ (x : Reg) (nn : Byte) (s : State),
    (∃ t, exec (.seImm x nn) s = .next t ∧
      t.pc = (if (s.getV x).toNat = nn.toNat then s.pc + 2#16 else s.pc) ∧ SameExcept [.pc] s t) ∧
    (∃ t, exec (.sneImm x nn) s = .next t ∧
      t.pc = (if (s.getV x).toNat = nn.toNat then s.pc else s.pc + 2#16) ∧ SameExcept [.pc] s t)

/-- R97, R98. -/
def Obligations.SkipsOnRegisters : Prop :=
  ∀ (x y : Reg) (s : State),
    (∃ t, exec (.seReg x y) s = .next t ∧
      t.pc = (if (s.getV x).toNat = (s.getV y).toNat then s.pc + 2#16 else s.pc) ∧ SameExcept [.pc] s t) ∧
    (∃ t, exec (.sneReg x y) s = .next t ∧
      t.pc = (if (s.getV x).toNat = (s.getV y).toNat then s.pc else s.pc + 2#16) ∧ SameExcept [.pc] s t)

/-- R99: the call's return address comes back, whatever ran in between, provided SP never went below where the call put it
and is back there: along any path of steps that issue no RESET. That SP never went below is the reading of R99's
"leave SP where the call put it" (DEDUCED, log 7). -/
def Obligations.CallThenReturn : Prop :=
  ∀ (nnn : Addr12) (s : State) (path : Nat → State) (n : Nat),
    exec (.call nnn) s = .next (path 0) →
    (∀ k, k < n → step (path k) = .next (path (k + 1)) ∧ (path k).nextTransaction ≠ .reset ∧
      (path 0).sp ≤ (path (k + 1)).sp) →
    (path n).sp = (path 0).sp →
    ∃ t, exec .ret (path n) = .next t ∧ t.pc = s.pc ∧ t.sp = s.sp

/-- R92, R94: a step that is no RESET leaves every slot that was live and still is. That the live slots are those below
SP is the slot order of R18, the spec's own decision D18 (log 6). -/
def Obligations.LiveSlotsAreKept : Prop :=
  ∀ s t : State, s.nextTransaction ≠ .reset → step s = .next t →
    ∀ k : Fin 16, k.val < s.sp.val → k.val < t.sp.val → t.stack[k] = s.stack[k]

/-! ## Load, ALU, random -/

/-- R100, R102. -/
def Obligations.LoadsImmediateAndCopies : Prop :=
  ∀ (x y : Reg) (nn : Byte) (s : State),
    (∃ t, exec (.ldImm x nn) s = .next t ∧ t.getV x = nn ∧ RegsExcept [x] s t ∧ SameExcept [.regs] s t) ∧
    (∃ t, exec (.ldReg x y) s = .next t ∧ t.getV x = s.getV y ∧ RegsExcept [x] s t ∧ SameExcept [.regs] s t)

/-- R101: VF changes only as the destination. -/
def Obligations.AddImmediateWraps : Prop :=
  ∀ (x : Reg) (nn : Byte) (s : State), ∃ t, exec (.addImm x nn) s = .next t ∧
    (t.getV x).toNat = ((s.getV x).toNat + nn.toNat) % 256 ∧ RegsExcept [x] s t ∧ SameExcept [.regs] s t

/-- R103, R104, R105, bit by bit; VF changes only as the destination (the spec's own decision D21, log 6). -/
def Obligations.LogicIsBitwise : Prop :=
  ∀ (x y : Reg) (s : State),
    (∃ t, exec (.orReg x y) s = .next t ∧
      (∀ i, (t.getV x).getLsbD i = ((s.getV x).getLsbD i || (s.getV y).getLsbD i)) ∧
      RegsExcept [x] s t ∧ SameExcept [.regs] s t) ∧
    (∃ t, exec (.andReg x y) s = .next t ∧
      (∀ i, (t.getV x).getLsbD i = ((s.getV x).getLsbD i && (s.getV y).getLsbD i)) ∧
      RegsExcept [x] s t ∧ SameExcept [.regs] s t) ∧
    (∃ t, exec (.xorReg x y) s = .next t ∧
      (∀ i, (t.getV x).getLsbD i = ((s.getV x).getLsbD i ^^ (s.getV y).getLsbD i)) ∧
      RegsExcept [x] s t ∧ SameExcept [.regs] s t)

/-- R106; for x = F the flag remains (R88, the spec's own decision D4, log 6). -/
def Obligations.AddSetsCarry : Prop :=
  ∀ (x y : Reg) (s : State), ∃ t, exec (.addReg x y) s = .next t ∧
    (t.getV vf).toNat = (if 255 < (s.getV x).toNat + (s.getV y).toNat then 1 else 0) ∧
    (x ≠ vf → (t.getV x).toNat = ((s.getV x).toNat + (s.getV y).toNat) % 256) ∧
    RegsExcept [x, vf] s t ∧ SameExcept [.regs] s t

/-- R107; for x = F the flag remains (R88, the spec's own decision D4, log 6). -/
def Obligations.SubtractSetsNoBorrow : Prop :=
  ∀ (x y : Reg) (s : State), ∃ t, exec (.sub x y) s = .next t ∧
    (t.getV vf).toNat = (if (s.getV y).toNat ≤ (s.getV x).toNat then 1 else 0) ∧
    (x ≠ vf → ((t.getV x).toNat : Int) = ((s.getV x).toNat - (s.getV y).toNat : Int) % 256) ∧
    RegsExcept [x, vf] s t ∧ SameExcept [.regs] s t

/-- R109; for x = F the flag remains (R88, the spec's own decision D4, log 6). -/
def Obligations.ReverseSubtractSetsNoBorrow : Prop :=
  ∀ (x y : Reg) (s : State), ∃ t, exec (.subn x y) s = .next t ∧
    (t.getV vf).toNat = (if (s.getV x).toNat ≤ (s.getV y).toNat then 1 else 0) ∧
    (x ≠ vf → ((t.getV x).toNat : Int) = ((s.getV y).toNat - (s.getV x).toNat : Int) % 256) ∧
    RegsExcept [x, vf] s t ∧ SameExcept [.regs] s t

/-- R108, R110, R73: the value of Vx is shifted, whatever y is; VF is the bit shifted out of the value; for x = F the
flag remains (R88, the spec's own decision D4, log 6). -/
def Obligations.ShiftsKeepTheBitOut : Prop :=
  ∀ (x y : Reg) (s : State),
    (∃ t, exec (.shr x y) s = .next t ∧ (t.getV vf).toNat = (s.getV x).toNat % 2 ∧
      (x ≠ vf → (t.getV x).toNat = (s.getV x).toNat / 2) ∧ RegsExcept [x, vf] s t ∧ SameExcept [.regs] s t) ∧
    (∃ t, exec (.shl x y) s = .next t ∧ (t.getV vf).toNat = (s.getV x).toNat / 128 ∧
      (x ≠ vf → (t.getV x).toNat = (s.getV x).toNat * 2 % 256) ∧ RegsExcept [x, vf] s t ∧ SameExcept [.regs] s t)

/-- R88 (the spec's own decision D4, log 6): with x = F the flag remains in the five instructions that write a result and a
flag. -/
def Obligations.FlagIsWrittenLast : Prop :=
  ∀ (y : Reg) (s : State),
    (∃ t, exec (.addReg vf y) s = .next t ∧
      (t.getV vf).toNat = if 255 < (s.getV vf).toNat + (s.getV y).toNat then 1 else 0) ∧
    (∃ t, exec (.sub vf y) s = .next t ∧ (t.getV vf).toNat = if (s.getV y).toNat ≤ (s.getV vf).toNat then 1 else 0) ∧
    (∃ t, exec (.subn vf y) s = .next t ∧ (t.getV vf).toNat = if (s.getV vf).toNat ≤ (s.getV y).toNat then 1 else 0) ∧
    (∃ t, exec (.shr vf y) s = .next t ∧ (t.getV vf).toNat = (s.getV vf).toNat % 2) ∧
    (∃ t, exec (.shl vf y) s = .next t ∧ (t.getV vf).toNat = (s.getV vf).toNat / 128)

/-- R111: Vx is the free byte of this draw (a free value: the spec's own decision D12, log 1) ANDed with nn; the one
guaranteed fact about it; the draw is used up. -/
def Obligations.RandomIsMasked : Prop :=
  ∀ (x : Reg) (nn : Byte) (s : State), ∃ t, exec (.rnd x nn) s = .next t ∧
    (∀ i, (t.getV x).getLsbD i = ((Config.rnd s.draws).getLsbD i && nn.getLsbD i)) ∧
    t.getV x &&& ~~~nn = 0x00#8 ∧ t.draws = s.draws + 1 ∧ RegsExcept [x] s t ∧ SameExcept [.regs, .draws] s t

/-! ## Index and memory -/

/-- R120. -/
def Obligations.IndexIsLoaded : Prop :=
  ∀ (nnn : Addr12) (s : State), ∃ t, exec (.ldI nnn) s = .next t ∧ t.ireg.toNat = nnn.toNat ∧ SameExcept [.index] s t

/-- R121, R122: the sum wraps modulo 65536 with no flag, the glyph address takes the whole byte (the spec's own decisions D8
and D7, log 6). -/
def Obligations.IndexIsComputed : Prop :=
  ∀ (x : Reg) (s : State),
    (∃ t, exec (.addI x) s = .next t ∧ t.ireg.toNat = (s.ireg.toNat + (s.getV x).toNat) % 65536 ∧
      SameExcept [.index] s t) ∧
    (∃ t, exec (.ldF x) s = .next t ∧ t.ireg.toNat = 0x0050 + 5 * (s.getV x).toNat ∧ SameExcept [.index] s t)

/-- R123: the three digits at I, I+1, I+2 and no other byte; or BoundsError and nothing written. The bound on writes, the
check of the whole range first, the state after the error and the info value are the spec's own decisions D9, D10, D11
(log 6). -/
def Obligations.BcdStoresDigits : Prop :=
  ∀ (x : Reg) (s : State),
    (s.ireg.toNat + 2 ≤ 0xFFF → ∃ t, exec (.bcd x) s = .next t ∧
      (t.readByte s.ireg.toNat).toNat = (s.getV x).toNat / 100 ∧
      (t.readByte (s.ireg.toNat + 1)).toNat = (s.getV x).toNat / 10 % 10 ∧
      (t.readByte (s.ireg.toNat + 2)).toNat = (s.getV x).toNat % 10 ∧
      (∀ a, (a < s.ireg.toNat ∨ s.ireg.toNat + 2 < a) → t.readByte a = s.readByte a) ∧ SameExcept [.mem] s t) ∧
    (0xFFF < s.ireg.toNat + 2 → exec (.bcd x) s = .fault (.boundsError (max s.ireg.toNat 0x1000) s))

/-- R124: V0 to Vx at I upward and no other byte; or BoundsError and nothing written. The bound on writes, the check
of the whole range first, the state after the error and the info value are the spec's own decisions D9, D10, D11 (log 6). -/
def Obligations.DumpStoresRegisters : Prop :=
  ∀ (x : Reg) (s : State),
    (s.ireg.toNat + x.val ≤ 0xFFF → ∃ t, exec (.stRegs x) s = .next t ∧
      (∀ r : Reg, r ≤ x → t.readByte (s.ireg.toNat + r.val) = s.getV r) ∧
      (∀ a, (a < s.ireg.toNat ∨ s.ireg.toNat + x.val < a) → t.readByte a = s.readByte a) ∧ SameExcept [.mem] s t) ∧
    (0xFFF < s.ireg.toNat + x.val → exec (.stRegs x) s = .fault (.boundsError (max s.ireg.toNat 0x1000) s))

/-- R125: V0 to Vx from I upward and no other register; or BoundsError and no register written. The check of the whole range
first, the state after the error and the info value are the spec's own decisions D9, D10, D11 (log 6). -/
def Obligations.LoadReadsRegisters : Prop :=
  ∀ (x : Reg) (s : State),
    (s.ireg.toNat + x.val ≤ 0xFFF → ∃ t, exec (.ldRegs x) s = .next t ∧
      (∀ r : Reg, r ≤ x → t.getV r = s.readByte (s.ireg.toNat + r.val)) ∧
      (∀ r : Reg, x < r → t.getV r = s.getV r) ∧ SameExcept [.regs] s t) ∧
    (0xFFF < s.ireg.toNat + x.val → exec (.ldRegs x) s = .fault (.boundsError (max s.ireg.toNat 0x1000) s))

/-- R125's last corner case: a dump, then a load with the same x and I while MEM keeps its bytes, restores V0 to Vx. -/
def Obligations.DumpThenLoadRestores : Prop :=
  ∀ (x : Reg) (s t u : State), exec (.stRegs x) s = .next t → u.ireg = s.ireg → (∀ a, u.readByte a = t.readByte a) →
    ∃ w, exec (.ldRegs x) u = .next w ∧ ∀ r : Reg, r ≤ x → w.getV r = s.getV r

/-- R53 (derived by the spec): a dump over the two bytes the next STEP fetches is what that STEP executes. -/
def Obligations.FetchSeesTheStore : Prop :=
  ∀ (x hi lo : Reg) (s t : State), exec (.stRegs x) s = .next t → t.nextTransaction = .step →
    hi.val + 1 = lo.val → lo ≤ x → t.pc.toNat = s.ireg.toNat + hi.val →
    step t = exec (decode (s.getV hi ++ s.getV lo)) { t with
      opcode := s.getV hi ++ s.getV lo
      pc := t.pc + 2#16
      launched := true
      schedule := t.schedule.tail }

/-! ## Display -/

/-- R131, with FBREAD after it: every cell unlit, VF not written. -/
def Obligations.ClearScreenClears : Prop :=
  ∀ s : State, ∃ t, exec .cls s = .next t ∧ SameExcept [.fb] s t ∧ transact .fbRead t = .next t ∧
    ∀ i : Fin 2048, Framebuffer.cellAt t.hostView.fb i = false

/-- R132, R133: exactly the cells a 1 bit of the sprite falls on are toggled, each coordinate wrapping on its own, with the
coordinates held before VF is written; VF is 1 exactly when one of them was lit; or BoundsError and nothing changed.
The bit order, reading before writing, the state after the error and the info value are the spec's own decisions D5, D3,
D10, D11 (log 6). -/
def Obligations.DrawTogglesTheSprite : Prop :=
  ∀ (x y : Reg) (n : Nibble) (s : State),
    (n.toNat = 0 ∨ s.ireg.toNat + n.toNat - 1 ≤ 0xFFF → ∃ t, exec (.drw x y n) s = .next t ∧
      (∀ cx cy, Framebuffer.cell t.fb cx cy = true ↔
        ¬ (Framebuffer.cell s.fb cx cy = true ↔ SpriteCovers s (s.getV x) (s.getV y) n.toNat cx cy)) ∧
      (t.getV vf = 0x00#8 ∨ t.getV vf = 0x01#8) ∧
      (t.getV vf = 0x01#8 ↔ ∃ cx cy, SpriteCovers s (s.getV x) (s.getV y) n.toNat cx cy ∧
        Framebuffer.cell s.fb cx cy = true) ∧
      RegsExcept [vf] s t ∧ SameExcept [.regs, .fb] s t) ∧
    (0 < n.toNat → 0xFFF < s.ireg.toNat + n.toNat - 1 →
      exec (.drw x y n) s = .fault (.boundsError (max s.ireg.toNat 0x1000) s))

/-- R135 (derived by the spec): drawn twice with the same Vx, Vy, I and sprite bytes and no write of FB in between, FB
is as before the first draw; VF after the second draw is 1 exactly when the sprite has a 1 bit on a cell that was unlit
before the first. Which cell a 1 bit falls on (`SpriteCovers`) is R132 with the bit order of R133, the spec's own
decision D5; that the coordinates are those held before VF is written is D3 (log 6). -/
def Obligations.DrawTwiceRestores : Prop :=
  ∀ (x y : Reg) (n : Nibble) (s t u : State), exec (.drw x y n) s = .next t →
    u.fb = t.fb → u.getV x = s.getV x → u.getV y = s.getV y → u.ireg = s.ireg →
    (∀ k, k < n.toNat → u.readByte (s.ireg.toNat + k) = s.readByte (s.ireg.toNat + k)) →
    ∃ w, exec (.drw x y n) u = .next w ∧ w.fb = s.fb ∧ (w.getV vf = 0x00#8 ∨ w.getV vf = 0x01#8) ∧
      (w.getV vf = 0x01#8 ↔ ∃ cx cy, SpriteCovers s (s.getV x) (s.getV y) n.toNat cx cy ∧
        Framebuffer.cell s.fb cx cy = false)

/-! ## Keypad and timers -/

/-- R140, R141: the key Vx names, or BoundsError(Vx) when Vx > 15 (the spec's own decision D6, log 6). -/
def Obligations.SkipsOnKey : Prop :=
  ∀ (x : Reg) (s : State),
    (∀ k : Fin 16, (s.getV x).toNat = k.val →
      (∃ t, exec (.skp x) s = .next t ∧ t.pc = (if s.key[k] then s.pc + 2#16 else s.pc) ∧ SameExcept [.pc] s t) ∧
      (∃ t, exec (.sknp x) s = .next t ∧ t.pc = (if s.key[k] then s.pc else s.pc + 2#16) ∧ SameExcept [.pc] s t)) ∧
    (15 < (s.getV x).toNat →
      exec (.skp x) s = .fault (.boundsError (s.getV x).toNat s) ∧
      exec (.sknp x) s = .fault (.boundsError (s.getV x).toNat s))

/-- R142: the smallest pressed key into Vx; with none pressed PC goes back by 2 and nothing else changes. -/
def Obligations.WaitsForTheLowestKey : Prop :=
  ∀ (x : Reg) (s : State),
    (∀ k : Fin 16, s.key[k] = true → (∀ j : Fin 16, j < k → s.key[j] = false) →
      ∃ t, exec (.ldVxK x) s = .next t ∧ (t.getV x).toNat = k.val ∧ RegsExcept [x] s t ∧ SameExcept [.regs] s t) ∧
    ((∀ k : Fin 16, s.key[k] = false) →
      ∃ t, exec (.ldVxK x) s = .next t ∧ t.pc = s.pc - 2#16 ∧ SameExcept [.pc] s t)

/-- R188, R142: with no key down, and a host that issues only STEPs (in the model the empty schedule, log 3), any number
of STEPs of Fx0A ends in one and the same state, which differs from the start only in OPCODE (and the model's own
`launched`, log 4). -/
def Obligations.KeyWaitRepeats : Prop :=
  ∀ (x : Reg) (s : State), s.schedule = [] → s.pc.toNat ≤ 0xFFE → decode s.fetchWord = .ldVxK x →
    (∀ k : Fin 16, s.key[k] = false) →
    ∃ t, SameExcept [.opcode, .launched] s t ∧ t.opcode = s.fetchWord ∧
      ∀ n, Host.Core.run Sys2Proof.core (n + 1) s = .next t

/-- R143, R144, R145. -/
def Obligations.TimersAreAccessed : Prop :=
  ∀ (x : Reg) (s : State),
    (∃ t, exec (.ldVxDt x) s = .next t ∧ t.getV x = s.dt ∧ RegsExcept [x] s t ∧ SameExcept [.regs] s t) ∧
    (∃ t, exec (.ldDtVx x) s = .next t ∧ t.dt = s.getV x ∧ SameExcept [.dt] s t) ∧
    (∃ t, exec (.ldStVx x) s = .next t ∧ t.st = s.getV x ∧ SameExcept [.st] s t)

/-- R146 (derived by the spec): what Fx15 wrote, Fx07 reads after k TICKs as `max(v - k, 0)`. -/
def Obligations.DelayTimerCountsDown : Prop :=
  ∀ (x y : Reg) (s t : State) (k : Nat), exec (.ldDtVx x) s = .next t →
    ∃ w, exec (.ldVxDt y) (tick^[k] t) = .next w ∧ (w.getV y).toNat = (s.getV x).toNat - k

/-! ## The host's transactions -/

/-- R163: each timer one less, floored at zero, independently; nothing else changes. -/
def Obligations.TickDecrementsTimers : Prop :=
  ∀ s : State, ∃ t, transact .tick s = .next t ∧ t.dt.toNat = s.dt.toNat - 1 ∧ t.st.toNat = s.st.toNat - 1 ∧
    SameExcept [.dt, .st] s t

/-- R170: the key takes the boolean; nothing else changes. -/
def Obligations.KeySetWritesOneKey : Prop :=
  ∀ (k : Fin 16) (b : Bool) (s : State), ∃ t, transact (.keySet k b) s = .next t ∧
    (∀ j : Fin 16, t.key[j] = if j = k then b else s.key[j]) ∧ SameExcept [.key] s t

/-- R28, R180: what RESET leaves, whatever the state before and for every FONT. -/
def Obligations.ResetLeavesTheResetState : Prop :=
  ∀ s : State, ∃ t, transact .reset s = .next t ∧
    (∀ r, t.getV r = 0x00#8) ∧ t.pc = 0x0200#16 ∧ t.ireg = 0x0000#16 ∧ t.sp.val = 0 ∧
    (∀ k : Fin 16, t.stack[k] = 0x0000#16) ∧ t.dt = 0x00#8 ∧ t.st = 0x00#8 ∧
    (∀ cx cy, Framebuffer.cell t.fb cx cy = false) ∧ (∀ k : Fin 16, t.key[k] = false) ∧ t.opcode = 0x0000#16 ∧
    (∀ k : Fin 80, t.readByte (0x050 + k.val) = s.font[k]) ∧
    (∀ a, a < 0x050 ∨ 0x09F < a → t.readByte a = 0x00#8)

/-- The model's choice, log 1 to 4: RESET (R181, the spec's own decision D20) keeps the FONT, the count of draws and the
schedule, and opens the way for a LOAD; `State.reset` is the state it leaves for the default FONT, no draw taken and an
empty schedule. -/
def Obligations.ResetKeepsTheModelsOwn : Prop :=
  ∀ s : State, ∃ t, transact .reset s = .next t ∧
    t.font = s.font ∧ t.draws = s.draws ∧ t.schedule = s.schedule ∧ t.launched = false ∧
    (s.font = Config.defaultFont → s.draws = 0 → s.schedule = [] → t = State.reset)

/-- R182: an image that fits is copied to 0x200 upward and nothing else changes (but the model's own `launched`); one that
does not fit raises CapacityError with its length and changes nothing. That the block is not yet launched is R183 (the
spec's own decision D14, log 4). -/
def Obligations.LoadCopiesAllOrNothing : Prop :=
  ∀ (image : List Byte) (s : State), s.launched = false →
    (0x200 + image.length ≤ 4096 → ∃ t, transact (.load image) s = .next t ∧
      (∀ k, (h : k < image.length) → t.readByte (0x200 + k) = image[k]) ∧
      (∀ a, a < 0x200 ∨ 0x200 + image.length ≤ a → t.readByte a = s.readByte a) ∧ SameExcept [.mem, .launched] s t) ∧
    (4096 < 0x200 + image.length → transact (.load image) s = .fault (.capacityError image.length s))

/-- R183 (the model's refusal, log 4): a LOAD is refused once a LOAD has succeeded or a STEP has completed, until RESET. -/
def Obligations.SecondLoadIsRefused : Prop :=
  ∀ (image : List Byte) (s : State),
    (s.launched = true → transact (.load image) s = .refused .loadAfterLaunch) ∧
    (∀ t, transact (.load image) s = .next t → t.launched = true) ∧
    (∀ t, transact .step s = .next t → t.launched = true) ∧
    (∀ (tr : Transaction) (t : State), tr ≠ .reset → s.launched = true → transact tr s = .next t → t.launched = true)

/-! ## Whole-machine rules -/

/-- R14 (derived by the spec): PC after a STEP, for every instruction and whether or not it raised an error. That PC has
advanced by 2 after a handler's error and not moved after a fetch error is the spec's own decision D10 (R89, R81), that
Bnnn is not masked D23, that a key index above 15 is an error D6 (log 6); a state after an error goes on through
`resume` (log 5). -/
def Obligations.PcAfterEveryStep : Prop :=
  ∀ s t : State, s.nextTransaction = .step → resume (step s) = some t →
    t.pc.toNat = if s.pc.toNat ≤ 0xFFE then pcAfter (decode s.fetchWord) s else s.pc.toNat

/-- R12 (derived by the spec), the "writes" column, and R11: a register an instruction does not write is unchanged. -/
def Obligations.OnlyWrittenRegistersChange : Prop :=
  ∀ (i : Instr) (s t : State), exec i s = .next t → RegsExcept (writesOf i) s t

/-- R12 (derived by the spec), the "reads" column: a register an instruction does not read influences nothing but itself.
Run from two states that differ in that register alone, it completes in both, and the results agree but for that register;
or it raises the same error in both. -/
def Obligations.UnreadRegistersDoNotMatter : Prop :=
  ∀ (i : Instr) (s : State) (r : Reg) (b : Byte), r ∉ readsOf i →
    (∀ t, exec i s = .next t → ∃ u, exec i (s.setV r b) = .next u ∧ u.setV r 0x00#8 = t.setV r 0x00#8) ∧
    (∀ f, exec i s = .fault f → ∃ g, exec i (s.setV r b) = .fault g ∧ g.code = f.code ∧ g.info = f.info ∧
      g.after = f.after.setV r b)

/-- R11, R16: the six flag instructions leave VF 0 or 1; every other instruction leaves VF alone unless it names it as its
destination (for 8xy1 to 8xy3 the spec's own decision D21, log 6). -/
def Obligations.OnlyFlagInstructionsTouchVf : Prop :=
  ∀ (i : Instr) (s t : State), exec i s = .next t →
    (writesFlag i = true → t.getV vf = 0x00#8 ∨ t.getV vf = 0x01#8) ∧
    (writesFlag i = false → vf ∉ writesOf i → t.getV vf = s.getV vf)

/-- R17 to R21, R25, R26, R49, R130: each piece of state changes only by the instructions that write it; KEY by none, OPCODE
by none after the fetch. -/
def Obligations.PiecesChangeOnlyByTheirWriters : Prop :=
  ∀ (i : Instr) (s t : State), exec i s = .next t → SameExcept (touched i) s t

/-- R150: exactly the listed errors, from the listed transactions, under the listed conditions, with the listed code, info
value and state afterwards; codes and info values are the spec's own decision D11, the state D10 (log 5, 6), the model's own
`launched` (log 4) beside OPCODE and PC. -/
def Obligations.ErrorsExactlyAsListed : Prop :=
  (∀ (i : Instr) (s : State) (f : Fault), exec i s = .fault f ↔ expectedError i s = some f) ∧
  (∀ (s : State) (f : Fault), transact .step s = .fault f ↔
    (0xFFE < s.pc.toNat ∧ f = .boundsError (max s.pc.toNat 0x1000) s) ∨
    (s.pc.toNat ≤ 0xFFE ∧ expectedError (decode s.fetchWord) (s.fetched s.fetchWord) = some f)) ∧
  (∀ (image : List Byte) (s : State) (f : Fault), s.launched = false →
    (transact (.load image) s = .fault f ↔ 4096 < 0x200 + image.length ∧ f = .capacityError image.length s)) ∧
  (∀ (s : State) (k : Fin 16) (b : Bool), Completes (transact .tick s) ∧ Completes (transact (.keySet k b) s) ∧
    Completes (transact .reset s) ∧ Completes (transact .fbRead s)) ∧
  (∀ (n : Nat) (nnn : Addr12) (s : State),
    (Fault.capacityError n s).code = 1#3 ∧ (Fault.capacityError n s).info = some n ∧
    (Fault.stackOverflow nnn s).code = 2#3 ∧ (Fault.stackOverflow nnn s).info = some nnn.toNat ∧
    (Fault.stackUnderflow s).code = 3#3 ∧ (Fault.stackUnderflow s).info = none ∧
    (Fault.boundsError n s).code = 4#3 ∧ (Fault.boundsError n s).info = some n)

/-- R89 (the spec's own decision D10, log 5, 6): an error of the fetch leaves everything unchanged; an error of a handler
leaves PC advanced by 2 and OPCODE holding the word, and everything else unchanged (`launched` and `schedule` are the
model's own). -/
def Obligations.ErrorsLeaveTheRestUnchanged : Prop :=
  ∀ (s : State) (f : Fault), s.nextTransaction = .step → step s = .fault f →
    (0xFFE < s.pc.toNat → SameExcept [.schedule] s f.after) ∧
    (s.pc.toNat ≤ 0xFFE → f.after.pc.toNat = s.pc.toNat + 2 ∧ f.after.opcode = s.fetchWord ∧
      SameExcept [.pc, .opcode, .launched, .schedule] s f.after)

/-- R71, R191 (the refusal is the model's, log 4): no instruction is refused; the only refusal of the machine is a LOAD
after the launch. -/
def Obligations.OnlyALateLoadIsRefused : Prop :=
  (∀ (i : Instr) (s : State) (r : Refusal), exec i s ≠ .refused r) ∧
  ∀ (s : State) (r : Refusal), step s = .refused r →
    r = .loadAfterLaunch ∧ s.launched = true ∧ ∃ image, s.nextTransaction = .load image

/-- R190 (the spec's own decision D17, log 6): from the jump-to-self state every further STEP leaves all state unchanged
but OPCODE, which holds the jump's own word (and the model's own `launched` and `schedule`); the state is still finished.
-/
def Obligations.FinishedStaysFinished : Prop :=
  ∀ s : State, Finished s → s.nextTransaction = .step →
    ∃ t, step s = .next t ∧ SameExcept [.opcode, .launched, .schedule] s t ∧ t.opcode = s.fetchWord ∧ Finished t

/-- The invariant holds at reset, for every FONT, draw count and schedule. -/
def Obligations.ResetMeetsTheInvariant : Prop :=
  Inv State.reset ∧ ∀ (font : Vector Byte 80) (k : Nat) (l : List Transaction), Inv (State.resetWith font k l)

/-- R15, R22 (derived by the spec), C11: memory stays canonical, PC stays at or below 0x10FE, and every slot of the stack
stays 0x0000 or a value 0x0002 to 0x1000, the live ones at least 0x0002: whatever transaction the step is. -/
def Obligations.EveryStepKeepsTheInvariant : Prop :=
  ∀ s t : State, Inv s → step s = .next t → Inv t

/-- R89, R160: the state an error leaves, from which a host that skips goes on, meets the invariant too. -/
def Obligations.ErrorsKeepTheInvariant : Prop :=
  ∀ (s : State) (f : Fault), Inv s → step s = .fault f → Inv f.after
end

