-- ==== Sys2Proof/Laws/State.lean ====
section
/-! SUPPORT. One lemma per field per update of State, so that no later proof unfolds a record update; then what the
register and byte accessors read after each update. -/

namespace Sys2Proof.Machine.State

variable (s : State)

/-! ### setV -/

@[simp] theorem setV_v (x : Reg) (b : Byte) : (s.setV x b).v = s.v.set x b := rfl
@[simp] theorem setV_ireg (x : Reg) (b : Byte) : (s.setV x b).ireg = s.ireg := rfl
@[simp] theorem setV_pc (x : Reg) (b : Byte) : (s.setV x b).pc = s.pc := rfl
@[simp] theorem setV_sp (x : Reg) (b : Byte) : (s.setV x b).sp = s.sp := rfl
@[simp] theorem setV_stack (x : Reg) (b : Byte) : (s.setV x b).stack = s.stack := rfl
@[simp] theorem setV_dt (x : Reg) (b : Byte) : (s.setV x b).dt = s.dt := rfl
@[simp] theorem setV_st (x : Reg) (b : Byte) : (s.setV x b).st = s.st := rfl
@[simp] theorem setV_fb (x : Reg) (b : Byte) : (s.setV x b).fb = s.fb := rfl
@[simp] theorem setV_key (x : Reg) (b : Byte) : (s.setV x b).key = s.key := rfl
@[simp] theorem setV_opcode (x : Reg) (b : Byte) : (s.setV x b).opcode = s.opcode := rfl
@[simp] theorem setV_mem (x : Reg) (b : Byte) : (s.setV x b).mem = s.mem := rfl
@[simp] theorem setV_font (x : Reg) (b : Byte) : (s.setV x b).font = s.font := rfl
@[simp] theorem setV_schedule (x : Reg) (b : Byte) : (s.setV x b).schedule = s.schedule := rfl
@[simp] theorem setV_draws (x : Reg) (b : Byte) : (s.setV x b).draws = s.draws := rfl
@[simp] theorem setV_launched (x : Reg) (b : Byte) : (s.setV x b).launched = s.launched := rfl

/-! ### setPc -/

@[simp] theorem setPc_v (a : Word) : (s.setPc a).v = s.v := rfl
@[simp] theorem setPc_ireg (a : Word) : (s.setPc a).ireg = s.ireg := rfl
@[simp] theorem setPc_pc (a : Word) : (s.setPc a).pc = a := rfl
@[simp] theorem setPc_sp (a : Word) : (s.setPc a).sp = s.sp := rfl
@[simp] theorem setPc_stack (a : Word) : (s.setPc a).stack = s.stack := rfl
@[simp] theorem setPc_dt (a : Word) : (s.setPc a).dt = s.dt := rfl
@[simp] theorem setPc_st (a : Word) : (s.setPc a).st = s.st := rfl
@[simp] theorem setPc_fb (a : Word) : (s.setPc a).fb = s.fb := rfl
@[simp] theorem setPc_key (a : Word) : (s.setPc a).key = s.key := rfl
@[simp] theorem setPc_opcode (a : Word) : (s.setPc a).opcode = s.opcode := rfl
@[simp] theorem setPc_mem (a : Word) : (s.setPc a).mem = s.mem := rfl
@[simp] theorem setPc_font (a : Word) : (s.setPc a).font = s.font := rfl
@[simp] theorem setPc_schedule (a : Word) : (s.setPc a).schedule = s.schedule := rfl
@[simp] theorem setPc_draws (a : Word) : (s.setPc a).draws = s.draws := rfl
@[simp] theorem setPc_launched (a : Word) : (s.setPc a).launched = s.launched := rfl

/-! ### setI -/

@[simp] theorem setI_v (a : Word) : (s.setI a).v = s.v := rfl
@[simp] theorem setI_ireg (a : Word) : (s.setI a).ireg = a := rfl
@[simp] theorem setI_pc (a : Word) : (s.setI a).pc = s.pc := rfl
@[simp] theorem setI_sp (a : Word) : (s.setI a).sp = s.sp := rfl
@[simp] theorem setI_stack (a : Word) : (s.setI a).stack = s.stack := rfl
@[simp] theorem setI_dt (a : Word) : (s.setI a).dt = s.dt := rfl
@[simp] theorem setI_st (a : Word) : (s.setI a).st = s.st := rfl
@[simp] theorem setI_fb (a : Word) : (s.setI a).fb = s.fb := rfl
@[simp] theorem setI_key (a : Word) : (s.setI a).key = s.key := rfl
@[simp] theorem setI_opcode (a : Word) : (s.setI a).opcode = s.opcode := rfl
@[simp] theorem setI_mem (a : Word) : (s.setI a).mem = s.mem := rfl
@[simp] theorem setI_font (a : Word) : (s.setI a).font = s.font := rfl
@[simp] theorem setI_schedule (a : Word) : (s.setI a).schedule = s.schedule := rfl
@[simp] theorem setI_draws (a : Word) : (s.setI a).draws = s.draws := rfl
@[simp] theorem setI_launched (a : Word) : (s.setI a).launched = s.launched := rfl

/-! ### setDt -/

@[simp] theorem setDt_v (b : Byte) : (s.setDt b).v = s.v := rfl
@[simp] theorem setDt_ireg (b : Byte) : (s.setDt b).ireg = s.ireg := rfl
@[simp] theorem setDt_pc (b : Byte) : (s.setDt b).pc = s.pc := rfl
@[simp] theorem setDt_sp (b : Byte) : (s.setDt b).sp = s.sp := rfl
@[simp] theorem setDt_stack (b : Byte) : (s.setDt b).stack = s.stack := rfl
@[simp] theorem setDt_dt (b : Byte) : (s.setDt b).dt = b := rfl
@[simp] theorem setDt_st (b : Byte) : (s.setDt b).st = s.st := rfl
@[simp] theorem setDt_fb (b : Byte) : (s.setDt b).fb = s.fb := rfl
@[simp] theorem setDt_key (b : Byte) : (s.setDt b).key = s.key := rfl
@[simp] theorem setDt_opcode (b : Byte) : (s.setDt b).opcode = s.opcode := rfl
@[simp] theorem setDt_mem (b : Byte) : (s.setDt b).mem = s.mem := rfl
@[simp] theorem setDt_font (b : Byte) : (s.setDt b).font = s.font := rfl
@[simp] theorem setDt_schedule (b : Byte) : (s.setDt b).schedule = s.schedule := rfl
@[simp] theorem setDt_draws (b : Byte) : (s.setDt b).draws = s.draws := rfl
@[simp] theorem setDt_launched (b : Byte) : (s.setDt b).launched = s.launched := rfl

/-! ### setSt -/

@[simp] theorem setSt_v (b : Byte) : (s.setSt b).v = s.v := rfl
@[simp] theorem setSt_ireg (b : Byte) : (s.setSt b).ireg = s.ireg := rfl
@[simp] theorem setSt_pc (b : Byte) : (s.setSt b).pc = s.pc := rfl
@[simp] theorem setSt_sp (b : Byte) : (s.setSt b).sp = s.sp := rfl
@[simp] theorem setSt_stack (b : Byte) : (s.setSt b).stack = s.stack := rfl
@[simp] theorem setSt_dt (b : Byte) : (s.setSt b).dt = s.dt := rfl
@[simp] theorem setSt_st (b : Byte) : (s.setSt b).st = b := rfl
@[simp] theorem setSt_fb (b : Byte) : (s.setSt b).fb = s.fb := rfl
@[simp] theorem setSt_key (b : Byte) : (s.setSt b).key = s.key := rfl
@[simp] theorem setSt_opcode (b : Byte) : (s.setSt b).opcode = s.opcode := rfl
@[simp] theorem setSt_mem (b : Byte) : (s.setSt b).mem = s.mem := rfl
@[simp] theorem setSt_font (b : Byte) : (s.setSt b).font = s.font := rfl
@[simp] theorem setSt_schedule (b : Byte) : (s.setSt b).schedule = s.schedule := rfl
@[simp] theorem setSt_draws (b : Byte) : (s.setSt b).draws = s.draws := rfl
@[simp] theorem setSt_launched (b : Byte) : (s.setSt b).launched = s.launched := rfl

/-! ### setFb -/

@[simp] theorem setFb_v (f : Framebuffer) : (s.setFb f).v = s.v := rfl
@[simp] theorem setFb_ireg (f : Framebuffer) : (s.setFb f).ireg = s.ireg := rfl
@[simp] theorem setFb_pc (f : Framebuffer) : (s.setFb f).pc = s.pc := rfl
@[simp] theorem setFb_sp (f : Framebuffer) : (s.setFb f).sp = s.sp := rfl
@[simp] theorem setFb_stack (f : Framebuffer) : (s.setFb f).stack = s.stack := rfl
@[simp] theorem setFb_dt (f : Framebuffer) : (s.setFb f).dt = s.dt := rfl
@[simp] theorem setFb_st (f : Framebuffer) : (s.setFb f).st = s.st := rfl
@[simp] theorem setFb_fb (f : Framebuffer) : (s.setFb f).fb = f := rfl
@[simp] theorem setFb_key (f : Framebuffer) : (s.setFb f).key = s.key := rfl
@[simp] theorem setFb_opcode (f : Framebuffer) : (s.setFb f).opcode = s.opcode := rfl
@[simp] theorem setFb_mem (f : Framebuffer) : (s.setFb f).mem = s.mem := rfl
@[simp] theorem setFb_font (f : Framebuffer) : (s.setFb f).font = s.font := rfl
@[simp] theorem setFb_schedule (f : Framebuffer) : (s.setFb f).schedule = s.schedule := rfl
@[simp] theorem setFb_draws (f : Framebuffer) : (s.setFb f).draws = s.draws := rfl
@[simp] theorem setFb_launched (f : Framebuffer) : (s.setFb f).launched = s.launched := rfl

/-! ### setKey -/

@[simp] theorem setKey_v (k : Fin 16) (b : Bool) : (s.setKey k b).v = s.v := rfl
@[simp] theorem setKey_ireg (k : Fin 16) (b : Bool) : (s.setKey k b).ireg = s.ireg := rfl
@[simp] theorem setKey_pc (k : Fin 16) (b : Bool) : (s.setKey k b).pc = s.pc := rfl
@[simp] theorem setKey_sp (k : Fin 16) (b : Bool) : (s.setKey k b).sp = s.sp := rfl
@[simp] theorem setKey_stack (k : Fin 16) (b : Bool) : (s.setKey k b).stack = s.stack := rfl
@[simp] theorem setKey_dt (k : Fin 16) (b : Bool) : (s.setKey k b).dt = s.dt := rfl
@[simp] theorem setKey_st (k : Fin 16) (b : Bool) : (s.setKey k b).st = s.st := rfl
@[simp] theorem setKey_fb (k : Fin 16) (b : Bool) : (s.setKey k b).fb = s.fb := rfl
@[simp] theorem setKey_key (k : Fin 16) (b : Bool) : (s.setKey k b).key = s.key.set k b := rfl
@[simp] theorem setKey_opcode (k : Fin 16) (b : Bool) : (s.setKey k b).opcode = s.opcode := rfl
@[simp] theorem setKey_mem (k : Fin 16) (b : Bool) : (s.setKey k b).mem = s.mem := rfl
@[simp] theorem setKey_font (k : Fin 16) (b : Bool) : (s.setKey k b).font = s.font := rfl
@[simp] theorem setKey_schedule (k : Fin 16) (b : Bool) : (s.setKey k b).schedule = s.schedule := rfl
@[simp] theorem setKey_draws (k : Fin 16) (b : Bool) : (s.setKey k b).draws = s.draws := rfl
@[simp] theorem setKey_launched (k : Fin 16) (b : Bool) : (s.setKey k b).launched = s.launched := rfl

/-! ### nextDraw -/

@[simp] theorem nextDraw_v : (s.nextDraw).v = s.v := rfl
@[simp] theorem nextDraw_ireg : (s.nextDraw).ireg = s.ireg := rfl
@[simp] theorem nextDraw_pc : (s.nextDraw).pc = s.pc := rfl
@[simp] theorem nextDraw_sp : (s.nextDraw).sp = s.sp := rfl
@[simp] theorem nextDraw_stack : (s.nextDraw).stack = s.stack := rfl
@[simp] theorem nextDraw_dt : (s.nextDraw).dt = s.dt := rfl
@[simp] theorem nextDraw_st : (s.nextDraw).st = s.st := rfl
@[simp] theorem nextDraw_fb : (s.nextDraw).fb = s.fb := rfl
@[simp] theorem nextDraw_key : (s.nextDraw).key = s.key := rfl
@[simp] theorem nextDraw_opcode : (s.nextDraw).opcode = s.opcode := rfl
@[simp] theorem nextDraw_mem : (s.nextDraw).mem = s.mem := rfl
@[simp] theorem nextDraw_font : (s.nextDraw).font = s.font := rfl
@[simp] theorem nextDraw_schedule : (s.nextDraw).schedule = s.schedule := rfl
@[simp] theorem nextDraw_draws : (s.nextDraw).draws = s.draws + 1 := rfl
@[simp] theorem nextDraw_launched : (s.nextDraw).launched = s.launched := rfl

/-! ### push -/

@[simp] theorem push_v (a : Word) (h : s.sp.val < 16) : (s.push a h).v = s.v := rfl
@[simp] theorem push_ireg (a : Word) (h : s.sp.val < 16) : (s.push a h).ireg = s.ireg := rfl
@[simp] theorem push_pc (a : Word) (h : s.sp.val < 16) : (s.push a h).pc = s.pc := rfl
@[simp] theorem push_sp (a : Word) (h : s.sp.val < 16) : (s.push a h).sp = ⟨s.sp.val + 1, by omega⟩ := rfl
@[simp] theorem push_stack (a : Word) (h : s.sp.val < 16) : (s.push a h).stack = s.stack.set s.sp.val a := rfl
@[simp] theorem push_dt (a : Word) (h : s.sp.val < 16) : (s.push a h).dt = s.dt := rfl
@[simp] theorem push_st (a : Word) (h : s.sp.val < 16) : (s.push a h).st = s.st := rfl
@[simp] theorem push_fb (a : Word) (h : s.sp.val < 16) : (s.push a h).fb = s.fb := rfl
@[simp] theorem push_key (a : Word) (h : s.sp.val < 16) : (s.push a h).key = s.key := rfl
@[simp] theorem push_opcode (a : Word) (h : s.sp.val < 16) : (s.push a h).opcode = s.opcode := rfl
@[simp] theorem push_mem (a : Word) (h : s.sp.val < 16) : (s.push a h).mem = s.mem := rfl
@[simp] theorem push_font (a : Word) (h : s.sp.val < 16) : (s.push a h).font = s.font := rfl
@[simp] theorem push_schedule (a : Word) (h : s.sp.val < 16) : (s.push a h).schedule = s.schedule := rfl
@[simp] theorem push_draws (a : Word) (h : s.sp.val < 16) : (s.push a h).draws = s.draws := rfl
@[simp] theorem push_launched (a : Word) (h : s.sp.val < 16) : (s.push a h).launched = s.launched := rfl

/-! ### popToPc -/

@[simp] theorem popToPc_v (h : 0 < s.sp.val) : (s.popToPc h).v = s.v := rfl
@[simp] theorem popToPc_ireg (h : 0 < s.sp.val) : (s.popToPc h).ireg = s.ireg := rfl
@[simp] theorem popToPc_pc (h : 0 < s.sp.val) : (s.popToPc h).pc = s.stack[s.sp.val - 1] := rfl
@[simp] theorem popToPc_sp (h : 0 < s.sp.val) : (s.popToPc h).sp = ⟨s.sp.val - 1, by omega⟩ := rfl
@[simp] theorem popToPc_stack (h : 0 < s.sp.val) : (s.popToPc h).stack = s.stack := rfl
@[simp] theorem popToPc_dt (h : 0 < s.sp.val) : (s.popToPc h).dt = s.dt := rfl
@[simp] theorem popToPc_st (h : 0 < s.sp.val) : (s.popToPc h).st = s.st := rfl
@[simp] theorem popToPc_fb (h : 0 < s.sp.val) : (s.popToPc h).fb = s.fb := rfl
@[simp] theorem popToPc_key (h : 0 < s.sp.val) : (s.popToPc h).key = s.key := rfl
@[simp] theorem popToPc_opcode (h : 0 < s.sp.val) : (s.popToPc h).opcode = s.opcode := rfl
@[simp] theorem popToPc_mem (h : 0 < s.sp.val) : (s.popToPc h).mem = s.mem := rfl
@[simp] theorem popToPc_font (h : 0 < s.sp.val) : (s.popToPc h).font = s.font := rfl
@[simp] theorem popToPc_schedule (h : 0 < s.sp.val) : (s.popToPc h).schedule = s.schedule := rfl
@[simp] theorem popToPc_draws (h : 0 < s.sp.val) : (s.popToPc h).draws = s.draws := rfl
@[simp] theorem popToPc_launched (h : 0 < s.sp.val) : (s.popToPc h).launched = s.launched := rfl

/-! ### writeByte -/

@[simp] theorem writeByte_v (a : Nat) (b : Byte) : (s.writeByte a b).v = s.v := rfl
@[simp] theorem writeByte_ireg (a : Nat) (b : Byte) : (s.writeByte a b).ireg = s.ireg := rfl
@[simp] theorem writeByte_pc (a : Nat) (b : Byte) : (s.writeByte a b).pc = s.pc := rfl
@[simp] theorem writeByte_sp (a : Nat) (b : Byte) : (s.writeByte a b).sp = s.sp := rfl
@[simp] theorem writeByte_stack (a : Nat) (b : Byte) : (s.writeByte a b).stack = s.stack := rfl
@[simp] theorem writeByte_dt (a : Nat) (b : Byte) : (s.writeByte a b).dt = s.dt := rfl
@[simp] theorem writeByte_st (a : Nat) (b : Byte) : (s.writeByte a b).st = s.st := rfl
@[simp] theorem writeByte_fb (a : Nat) (b : Byte) : (s.writeByte a b).fb = s.fb := rfl
@[simp] theorem writeByte_key (a : Nat) (b : Byte) : (s.writeByte a b).key = s.key := rfl
@[simp] theorem writeByte_opcode (a : Nat) (b : Byte) : (s.writeByte a b).opcode = s.opcode := rfl
@[simp] theorem writeByte_mem (a : Nat) (b : Byte) : (s.writeByte a b).mem = Memory.write s.font s.mem a b := rfl
@[simp] theorem writeByte_font (a : Nat) (b : Byte) : (s.writeByte a b).font = s.font := rfl
@[simp] theorem writeByte_schedule (a : Nat) (b : Byte) : (s.writeByte a b).schedule = s.schedule := rfl
@[simp] theorem writeByte_draws (a : Nat) (b : Byte) : (s.writeByte a b).draws = s.draws := rfl
@[simp] theorem writeByte_launched (a : Nat) (b : Byte) : (s.writeByte a b).launched = s.launched := rfl

/-! ### writeBytes -/

@[simp] theorem writeBytes_v (a : Nat) (l : List Byte) : (s.writeBytes a l).v = s.v := rfl
@[simp] theorem writeBytes_ireg (a : Nat) (l : List Byte) : (s.writeBytes a l).ireg = s.ireg := rfl
@[simp] theorem writeBytes_pc (a : Nat) (l : List Byte) : (s.writeBytes a l).pc = s.pc := rfl
@[simp] theorem writeBytes_sp (a : Nat) (l : List Byte) : (s.writeBytes a l).sp = s.sp := rfl
@[simp] theorem writeBytes_stack (a : Nat) (l : List Byte) : (s.writeBytes a l).stack = s.stack := rfl
@[simp] theorem writeBytes_dt (a : Nat) (l : List Byte) : (s.writeBytes a l).dt = s.dt := rfl
@[simp] theorem writeBytes_st (a : Nat) (l : List Byte) : (s.writeBytes a l).st = s.st := rfl
@[simp] theorem writeBytes_fb (a : Nat) (l : List Byte) : (s.writeBytes a l).fb = s.fb := rfl
@[simp] theorem writeBytes_key (a : Nat) (l : List Byte) : (s.writeBytes a l).key = s.key := rfl
@[simp] theorem writeBytes_opcode (a : Nat) (l : List Byte) : (s.writeBytes a l).opcode = s.opcode := rfl
@[simp] theorem writeBytes_mem (a : Nat) (l : List Byte) : (s.writeBytes a l).mem = Memory.writeBytes s.font s.mem a l := rfl
@[simp] theorem writeBytes_font (a : Nat) (l : List Byte) : (s.writeBytes a l).font = s.font := rfl
@[simp] theorem writeBytes_schedule (a : Nat) (l : List Byte) : (s.writeBytes a l).schedule = s.schedule := rfl
@[simp] theorem writeBytes_draws (a : Nat) (l : List Byte) : (s.writeBytes a l).draws = s.draws := rfl
@[simp] theorem writeBytes_launched (a : Nat) (l : List Byte) : (s.writeBytes a l).launched = s.launched := rfl

/-! ### loadRegs -/

@[simp] theorem loadRegs_v (x : Reg) (a : Nat) : (s.loadRegs x a).v = Vector.ofFn fun i : Fin 16 => if i.val ≤ x.val then s.readByte (a + i.val) else s.v[i] := rfl
@[simp] theorem loadRegs_ireg (x : Reg) (a : Nat) : (s.loadRegs x a).ireg = s.ireg := rfl
@[simp] theorem loadRegs_pc (x : Reg) (a : Nat) : (s.loadRegs x a).pc = s.pc := rfl
@[simp] theorem loadRegs_sp (x : Reg) (a : Nat) : (s.loadRegs x a).sp = s.sp := rfl
@[simp] theorem loadRegs_stack (x : Reg) (a : Nat) : (s.loadRegs x a).stack = s.stack := rfl
@[simp] theorem loadRegs_dt (x : Reg) (a : Nat) : (s.loadRegs x a).dt = s.dt := rfl
@[simp] theorem loadRegs_st (x : Reg) (a : Nat) : (s.loadRegs x a).st = s.st := rfl
@[simp] theorem loadRegs_fb (x : Reg) (a : Nat) : (s.loadRegs x a).fb = s.fb := rfl
@[simp] theorem loadRegs_key (x : Reg) (a : Nat) : (s.loadRegs x a).key = s.key := rfl
@[simp] theorem loadRegs_opcode (x : Reg) (a : Nat) : (s.loadRegs x a).opcode = s.opcode := rfl
@[simp] theorem loadRegs_mem (x : Reg) (a : Nat) : (s.loadRegs x a).mem = s.mem := rfl
@[simp] theorem loadRegs_font (x : Reg) (a : Nat) : (s.loadRegs x a).font = s.font := rfl
@[simp] theorem loadRegs_schedule (x : Reg) (a : Nat) : (s.loadRegs x a).schedule = s.schedule := rfl
@[simp] theorem loadRegs_draws (x : Reg) (a : Nat) : (s.loadRegs x a).draws = s.draws := rfl
@[simp] theorem loadRegs_launched (x : Reg) (a : Nat) : (s.loadRegs x a).launched = s.launched := rfl

/-! ### fetched -/

@[simp] theorem fetched_v (op : Word) : (s.fetched op).v = s.v := rfl
@[simp] theorem fetched_ireg (op : Word) : (s.fetched op).ireg = s.ireg := rfl
@[simp] theorem fetched_pc (op : Word) : (s.fetched op).pc = s.pc + 2#16 := rfl
@[simp] theorem fetched_sp (op : Word) : (s.fetched op).sp = s.sp := rfl
@[simp] theorem fetched_stack (op : Word) : (s.fetched op).stack = s.stack := rfl
@[simp] theorem fetched_dt (op : Word) : (s.fetched op).dt = s.dt := rfl
@[simp] theorem fetched_st (op : Word) : (s.fetched op).st = s.st := rfl
@[simp] theorem fetched_fb (op : Word) : (s.fetched op).fb = s.fb := rfl
@[simp] theorem fetched_key (op : Word) : (s.fetched op).key = s.key := rfl
@[simp] theorem fetched_opcode (op : Word) : (s.fetched op).opcode = op := rfl
@[simp] theorem fetched_mem (op : Word) : (s.fetched op).mem = s.mem := rfl
@[simp] theorem fetched_font (op : Word) : (s.fetched op).font = s.font := rfl
@[simp] theorem fetched_schedule (op : Word) : (s.fetched op).schedule = s.schedule := rfl
@[simp] theorem fetched_draws (op : Word) : (s.fetched op).draws = s.draws := rfl
@[simp] theorem fetched_launched (op : Word) : (s.fetched op).launched = true := rfl

/-! ### popSchedule -/

@[simp] theorem popSchedule_v : (s.popSchedule).v = s.v := rfl
@[simp] theorem popSchedule_ireg : (s.popSchedule).ireg = s.ireg := rfl
@[simp] theorem popSchedule_pc : (s.popSchedule).pc = s.pc := rfl
@[simp] theorem popSchedule_sp : (s.popSchedule).sp = s.sp := rfl
@[simp] theorem popSchedule_stack : (s.popSchedule).stack = s.stack := rfl
@[simp] theorem popSchedule_dt : (s.popSchedule).dt = s.dt := rfl
@[simp] theorem popSchedule_st : (s.popSchedule).st = s.st := rfl
@[simp] theorem popSchedule_fb : (s.popSchedule).fb = s.fb := rfl
@[simp] theorem popSchedule_key : (s.popSchedule).key = s.key := rfl
@[simp] theorem popSchedule_opcode : (s.popSchedule).opcode = s.opcode := rfl
@[simp] theorem popSchedule_mem : (s.popSchedule).mem = s.mem := rfl
@[simp] theorem popSchedule_font : (s.popSchedule).font = s.font := rfl
@[simp] theorem popSchedule_schedule : (s.popSchedule).schedule = s.schedule.tail := rfl
@[simp] theorem popSchedule_draws : (s.popSchedule).draws = s.draws := rfl
@[simp] theorem popSchedule_launched : (s.popSchedule).launched = s.launched := rfl

/-! ### The accessors after an update -/

@[simp] theorem setV_readByte (x : Reg) (b : Byte) (c : Nat) : (s.setV x b).readByte c = s.readByte c := rfl
@[simp] theorem setPc_getV (a : Word) (r : Reg) : (s.setPc a).getV r = s.getV r := rfl
@[simp] theorem setPc_readByte (a : Word) (c : Nat) : (s.setPc a).readByte c = s.readByte c := rfl
@[simp] theorem setI_getV (a : Word) (r : Reg) : (s.setI a).getV r = s.getV r := rfl
@[simp] theorem setI_readByte (a : Word) (c : Nat) : (s.setI a).readByte c = s.readByte c := rfl
@[simp] theorem setDt_getV (b : Byte) (r : Reg) : (s.setDt b).getV r = s.getV r := rfl
@[simp] theorem setDt_readByte (b : Byte) (c : Nat) : (s.setDt b).readByte c = s.readByte c := rfl
@[simp] theorem setSt_getV (b : Byte) (r : Reg) : (s.setSt b).getV r = s.getV r := rfl
@[simp] theorem setSt_readByte (b : Byte) (c : Nat) : (s.setSt b).readByte c = s.readByte c := rfl
@[simp] theorem setFb_getV (f : Framebuffer) (r : Reg) : (s.setFb f).getV r = s.getV r := rfl
@[simp] theorem setFb_readByte (f : Framebuffer) (c : Nat) : (s.setFb f).readByte c = s.readByte c := rfl
@[simp] theorem setKey_getV (k : Fin 16) (b : Bool) (r : Reg) : (s.setKey k b).getV r = s.getV r := rfl
@[simp] theorem setKey_readByte (k : Fin 16) (b : Bool) (c : Nat) : (s.setKey k b).readByte c = s.readByte c := rfl
@[simp] theorem nextDraw_getV (r : Reg) : (s.nextDraw).getV r = s.getV r := rfl
@[simp] theorem nextDraw_readByte (c : Nat) : (s.nextDraw).readByte c = s.readByte c := rfl
@[simp] theorem push_getV (a : Word) (h : s.sp.val < 16) (r : Reg) : (s.push a h).getV r = s.getV r := rfl
@[simp] theorem push_readByte (a : Word) (h : s.sp.val < 16) (c : Nat) : (s.push a h).readByte c = s.readByte c := rfl
@[simp] theorem popToPc_getV (h : 0 < s.sp.val) (r : Reg) : (s.popToPc h).getV r = s.getV r := rfl
@[simp] theorem popToPc_readByte (h : 0 < s.sp.val) (c : Nat) : (s.popToPc h).readByte c = s.readByte c := rfl
@[simp] theorem writeByte_getV (a : Nat) (b : Byte) (r : Reg) : (s.writeByte a b).getV r = s.getV r := rfl
@[simp] theorem writeBytes_getV (a : Nat) (l : List Byte) (r : Reg) : (s.writeBytes a l).getV r = s.getV r := rfl
@[simp] theorem loadRegs_readByte (x : Reg) (a : Nat) (c : Nat) : (s.loadRegs x a).readByte c = s.readByte c := rfl
@[simp] theorem fetched_getV (op : Word) (r : Reg) : (s.fetched op).getV r = s.getV r := rfl
@[simp] theorem fetched_readByte (op : Word) (c : Nat) : (s.fetched op).readByte c = s.readByte c := rfl
@[simp] theorem popSchedule_getV (r : Reg) : (s.popSchedule).getV r = s.getV r := rfl
@[simp] theorem popSchedule_readByte (c : Nat) : (s.popSchedule).readByte c = s.readByte c := rfl

/-- `V[r]` after `V[x] <- b`. -/
@[simp] theorem setV_getV (x : Reg) (b : Byte) (r : Reg) : (s.setV x b).getV r = if r = x then b else s.getV r := by
  simp only [getV, setV, Fin.getElem_fin, Vector.getElem_set, Fin.ext_iff]
  by_cases h : x.val = r.val <;> simp [h, eq_comm]

/-- `V[r]` after a register load: loaded up to x, kept above (R125). -/
@[simp] theorem loadRegs_getV (x : Reg) (a : Nat) (r : Reg) :
    (s.loadRegs x a).getV r = if r.val ≤ x.val then s.readByte (a + r.val) else s.getV r := by
  simp [getV, loadRegs]

/-- Two writes to the same register: the last one stays. -/
@[simp] theorem setV_setV (x : Reg) (a b : Byte) : (s.setV x a).setV x b = s.setV x b := by
  simp [setV]

/-- Writing back the value read changes nothing. -/
@[simp] theorem setV_getV_self (x : Reg) : s.setV x (s.getV x) = s := by
  simp [setV, getV]

end Sys2Proof.Machine.State
end

