-- ==== Sys2Proof/Laws/Memory.lean ====
section
/-! SUPPORT. The laws of memory: a read after a write (R49, R50), consecutive writes (R43), and that every operation keeps
the canonical form. -/

namespace Sys2Proof.Machine

/-- Dropping an address makes it read as the reset contents and leaves every other address alone. -/
theorem Memory.read_erase (font : Vector Byte 80) (m : Memory) (a c : Nat) :
    Memory.read font (Memory.erase a m) c = if c = a then unlistedByte font c else Memory.read font m c := by
  induction m with
  | nil => simp [Memory.erase, Memory.read]
  | cons e rest ih =>
    obtain ⟨k, d⟩ := e
    simp only [Memory.erase, Memory.read]
    split <;> rename_i hk
    · rw [ih]
      by_cases hc : c = a
      · simp [hc]
      · simp [hc, show k ≠ c by omega]
    · simp only [Memory.read, ih]
      by_cases hkc : k = c
      · simp [hkc, show c ≠ a by omega]
      · simp [hkc]

/-- Inserting an address makes it read as the byte and leaves every other address alone. -/
theorem Memory.read_insert (font : Vector Byte 80) (m : Memory) (a : Nat) (b : Byte) (c : Nat) :
    Memory.read font (Memory.insert a b m) c = if c = a then b else Memory.read font m c := by
  induction m with
  | nil => simp [Memory.insert, Memory.read, eq_comm]
  | cons e rest ih =>
    obtain ⟨k, d⟩ := e
    simp only [Memory.insert]
    split
    · simp [Memory.read, eq_comm]
    · split
      · subst_vars
        by_cases hc : c = k <;> simp [Memory.read, hc, eq_comm]
      · simp only [Memory.read, ih]
        by_cases hkc : k = c
        · simp [hkc, show c ≠ a by omega]
        · simp [hkc]

/-- A write changes exactly the byte addressed (R49). -/
@[simp] theorem Memory.read_write (font : Vector Byte 80) (m : Memory) (a : Nat) (b : Byte) (c : Nat) :
    Memory.read font (Memory.write font m a b) c = if c = a then b else Memory.read font m c := by
  unfold Memory.write
  split
  · rw [Memory.read_erase]
    by_cases hc : c = a <;> simp_all
  · rw [Memory.read_insert]

/-- Consecutive writes put byte k of the list at `a + k` and leave every other address alone (R43, R49). -/
theorem Memory.read_writeBytes (font : Vector Byte 80) (l : List Byte) (m : Memory) (a c : Nat) :
    Memory.read font (Memory.writeBytes font m a l) c =
      if h : a ≤ c ∧ c - a < l.length then l[c - a] else Memory.read font m c := by
  induction l generalizing m a with
  | nil => simp [Memory.writeBytes]
  | cons b rest ih =>
    rw [Memory.writeBytes, ih, Memory.read_write]
    rcases lt_trichotomy c a with h | h | h
    · rw [dif_neg (by omega), dif_neg (by omega), if_neg (by omega)]
    · subst h
      rw [dif_neg (by omega), dif_pos ⟨Nat.le_refl _, by simp⟩]
      simp
    · by_cases hl : c - a < rest.length + 1
      · rw [dif_pos ⟨by omega, by omega⟩, dif_pos ⟨by omega, by simpa using hl⟩]
        simp only [List.getElem_cons, show c - a ≠ 0 by omega, dif_neg, not_false_eq_true]
        congr 1
      · rw [dif_neg (by omega), dif_neg (by simp; omega), if_neg (by omega)]

/-- The byte read after a byte is written. -/
@[simp] theorem State.writeByte_readByte (s : State) (a : Nat) (b : Byte) (c : Nat) :
    (s.writeByte a b).readByte c = if c = a then b else s.readByte c := by
  simp [State.readByte]

/-- The byte read after consecutive bytes are written. -/
theorem State.writeBytes_readByte (s : State) (a : Nat) (l : List Byte) (c : Nat) :
    (s.writeBytes a l).readByte c = if h : a ≤ c ∧ c - a < l.length then l[c - a] else s.readByte c := by
  simp [State.readByte, Memory.read_writeBytes]

/-! ## The canonical form -/

/-- An entry kept by a drop was an entry before, at another address. -/
theorem Memory.mem_erase {a : Nat} {m : Memory} {e : Host.Cell} (h : e ∈ Memory.erase a m) : e ∈ m ∧ e.1 ≠ a := by
  induction m with
  | nil => simp [Memory.erase] at h
  | cons e' rest ih =>
    obtain ⟨k, d⟩ := e'
    simp only [Memory.erase] at h
    split at h
    · exact ⟨List.mem_cons_of_mem _ (ih h).1, (ih h).2⟩
    · rcases List.mem_cons.mp h with rfl | h
      · exact ⟨List.mem_cons_self, by assumption⟩
      · exact ⟨List.mem_cons_of_mem _ (ih h).1, (ih h).2⟩

/-- An entry after an insertion is the new one or an old one. -/
theorem Memory.mem_insert {a : Nat} {b : Byte} {m : Memory} {e : Host.Cell} (h : e ∈ Memory.insert a b m) :
    e = (a, b) ∨ e ∈ m := by
  induction m with
  | nil => simpa [Memory.insert] using h
  | cons e' rest ih =>
    obtain ⟨k, d⟩ := e'
    simp only [Memory.insert] at h
    split at h
    · exact List.mem_cons.mp h
    · split at h <;> rcases List.mem_cons.mp h with h | h
      · exact .inl h
      · exact .inr (List.mem_cons_of_mem _ h)
      · exact .inr (h ▸ List.mem_cons_self)
      · exact (ih h).imp_right (List.mem_cons_of_mem _)

/-- Dropping an address keeps the addresses rising. -/
theorem Memory.rising_erase {a : Nat} {m : Memory} (h : m.Pairwise fun c d => c.1 < d.1) :
    (Memory.erase a m).Pairwise fun c d => c.1 < d.1 := by
  induction m with
  | nil => exact h
  | cons e rest ih =>
    obtain ⟨k, d⟩ := e
    rw [List.pairwise_cons] at h
    simp only [Memory.erase]
    split
    · exact ih h.2
    · exact List.pairwise_cons.mpr ⟨fun e he => h.1 e (Memory.mem_erase he).1, ih h.2⟩

/-- Inserting an address keeps the addresses rising. -/
theorem Memory.rising_insert {a : Nat} {b : Byte} {m : Memory} (h : m.Pairwise fun c d => c.1 < d.1) :
    (Memory.insert a b m).Pairwise fun c d => c.1 < d.1 := by
  induction m with
  | nil => simp [Memory.insert]
  | cons e rest ih =>
    obtain ⟨k, d⟩ := e
    have h' := List.pairwise_cons.mp h
    simp only [Memory.insert]
    split
    · rename_i hak
      refine List.pairwise_cons.mpr ⟨fun e he => ?_, h⟩
      rcases List.mem_cons.mp he with rfl | he
      · exact hak
      · exact Nat.lt_trans hak (h'.1 e he)
    · split
      · subst_vars
        exact List.pairwise_cons.mpr ⟨h'.1, h'.2⟩
      · refine List.pairwise_cons.mpr ⟨fun e he => ?_, ih h'.2⟩
        rcases Memory.mem_insert he with rfl | he
        · show k < a
          omega
        · exact h'.1 e he

/-- Every write inside MEM keeps the canonical form. -/
theorem Memory.wf_write {font : Vector Byte 80} {m : Memory} (h : Memory.wf font m) {a : Nat} (ha : a < 4096) (b : Byte) :
    Memory.wf font (Memory.write font m a b) := by
  unfold Memory.write
  split
  · exact ⟨Memory.rising_erase h.1, fun e he => h.2 e (Memory.mem_erase he).1⟩
  · rename_i hb
    refine ⟨Memory.rising_insert h.1, fun e he => ?_⟩
    rcases Memory.mem_insert he with rfl | he
    · exact ⟨ha, hb⟩
    · exact h.2 e he

/-- Consecutive writes inside MEM keep the canonical form. -/
theorem Memory.wf_writeBytes {font : Vector Byte 80} (l : List Byte) {m : Memory} (h : Memory.wf font m) {a : Nat}
    (ha : a + l.length ≤ 4096) : Memory.wf font (Memory.writeBytes font m a l) := by
  induction l generalizing m a with
  | nil => exact h
  | cons b rest ih =>
    rw [List.length_cons] at ha
    exact ih (Memory.wf_write h (by omega) b) (by omega)

/-- The reset memory is canonical, for every font. -/
theorem Memory.wf_reset (font : Vector Byte 80) (k : Nat) (l : List Transaction) :
    Memory.wf font (State.resetWith font k l).mem :=
  ⟨List.Pairwise.nil, fun _ h => absurd h List.not_mem_nil⟩

end Sys2Proof.Machine
end

