-- ==== Sys2Proof/Laws/Ops.lean ====
section
/-! SUPPORT. One lemma per shared operation that says everything it can do: the range check, the skip, the key read, the
flag write, the operand forms. -/

namespace Sys2Proof.Machine

/-! ## The range check (R46 to R48) -/

/-- In bounds (or empty): the range check does nothing. -/
theorem guardRange_ok {first count : Nat} (h : count = 0 ∨ first + count ≤ 4096) (s : State) (k : Result) :
    guardRange first count s k = k := by
  unfold guardRange
  rw [if_neg (by omega)]

/-- Out of bounds: BoundsError with the lowest address above 0xFFF, from the state given. -/
theorem guardRange_out {first count : Nat} (h0 : 0 < count) (h : 4096 < first + count) (s : State) (k : Result) :
    guardRange first count s k = .fault (.boundsError (max first 0x1000) s) := by
  unfold guardRange raise
  rw [if_pos (by omega)]

/-- A checked operation answers a next state only in bounds, and then it is the operation's own. -/
theorem guardRange_next {first count : Nat} {s t : State} {k : Result} (h : guardRange first count s k = .next t) :
    (count = 0 ∨ first + count ≤ 4096) ∧ k = .next t := by
  unfold guardRange at h
  split at h
  · cases h
  · exact ⟨by omega, h⟩

/-! ## Skips, keys, flags -/

/-- A skip always completes; it changes PC alone. -/
theorem skipIf_eq (c : Bool) (s : State) : skipIf c s = .next (s.setPc (if c then s.pc + 2#16 else s.pc)) := by
  cases c <;> rfl

/-- A key index up to 15 reads that key. -/
theorem withKey_ok {b : Byte} (h : b.toNat < 16) (s : State) (k : Bool → Result) :
    withKey b s k = k (s.key[b.toNat]) := by
  unfold withKey
  rw [dif_pos h]

/-- A key index above 15 raises BoundsError with the index (R140). -/
theorem withKey_out {b : Byte} (h : 16 ≤ b.toNat) (s : State) (k : Bool → Result) :
    withKey b s k = .fault (.boundsError b.toNat s) := by
  unfold withKey raise
  rw [dif_neg (by omega)]

/-- The registers after a result and a flag are written: VF is the flag, whatever x is (R88). -/
theorem writeResultThenFlag_getV (x : Reg) (r : Byte) (f : Bool) (s : State) (q : Reg) :
    ((s.setV x r).setV vf (flagByte f)).getV q =
      if q = vf then flagByte f else if q = x then r else s.getV q := by
  simp

/-! ## Operand forms -/

/-- The widened immediate is the immediate. -/
@[simp] theorem addrOfImm_toNat (nnn : Addr12) : (addrOfImm nnn).toNat = nnn.toNat := by
  have h := nnn.isLt
  simp [addrOfImm, BitVec.toNat_setWidth]
  omega

/-- The widened byte is the byte. -/
@[simp] theorem wordOfByte_toNat (b : Byte) : (wordOfByte b).toNat = b.toNat := by
  have h := b.isLt
  simp [wordOfByte, BitVec.toNat_setWidth]
  omega

/-- The glyph address is `0x50 + 5 * Vx`, never above 0x054B (R122). -/
theorem glyphAddr_toNat (b : Byte) : (glyphAddr b).toNat = 0x50 + 5 * b.toNat := by
  have h := b.isLt
  simp only [glyphAddr, BitVec.toNat_add, BitVec.toNat_mul, wordOfByte_toNat, BitVec.toNat_ofNat]
  omega

/-- A dump stores x + 1 bytes. -/
@[simp] theorem regsTo_length (s : State) (x : Reg) : (s.regsTo x).length = x.val + 1 := by
  have h := x.isLt
  simp [State.regsTo]

/-- Byte k of a dump is `V[k]`. -/
theorem regsTo_getElem (s : State) (x : Reg) (k : Nat) (h : k < (s.regsTo x).length) :
    (s.regsTo x)[k] = s.getV ⟨k, by rw [regsTo_length] at h; have := x.isLt; omega⟩ := by
  simp [State.regsTo, State.getV]

/-- Three digits. -/
@[simp] theorem decimalDigits_length (b : Byte) : (decimalDigits b).length = 3 := by simp [decimalDigits]

/-- `n` bytes are read. -/
@[simp] theorem readBytes_length (s : State) (a n : Nat) : (s.readBytes a n).length = n := by
  simp [State.readBytes]

/-- Byte k of a read is at `a + k`. -/
@[simp] theorem readBytes_getElem (s : State) (a n k : Nat) (h : k < (s.readBytes a n).length) :
    (s.readBytes a n)[k] = s.readByte (a + k) := by
  simp [State.readBytes]

/-- The scan finds a key exactly when it is pressed and no smaller one is (R142). -/
theorem lowestKey_some {key : Vector Bool 16} {k : Fin 16} (h : lowestKey key = some k) :
    key[k] = true ∧ ∀ j : Fin 16, j < k → key[j] = false := by
  unfold lowestKey at h
  obtain ⟨hk, as, bs, hl, has⟩ := List.find?_eq_some_iff_append.mp h
  refine ⟨by simpa using hk, fun j hj => ?_⟩
  have hs : (List.finRange 16).Pairwise (· < ·) := List.pairwise_lt_finRange 16
  have hm : j ∈ List.finRange 16 := List.mem_finRange j
  rw [hl] at hm hs
  rcases List.mem_append.mp hm with hm | hm
  · simpa using has j hm
  · rw [List.pairwise_append, List.pairwise_cons] at hs
    rcases List.mem_cons.mp hm with rfl | hm
    · exact absurd hj (lt_irrefl _)
    · exact absurd (lt_trans hj (hs.2.1.1 j hm)) (lt_irrefl _)

/-- The scan finds no key exactly when none is pressed (R142). -/
theorem lowestKey_none {key : Vector Bool 16} : lowestKey key = none ↔ ∀ k : Fin 16, key[k] = false := by
  simp [lowestKey, List.find?_eq_none]

/-! ## Stack -/

/-- The slots after a push: slot SP holds the value, the others keep theirs (R18). -/
theorem push_stack_getElem (s : State) (a : Word) (h : s.sp.val < 16) (k : Fin 16) :
    (s.push a h).stack[k] = if k.val = s.sp.val then a else s.stack[k] := by
  simp [Vector.getElem_set, eq_comm]

end Sys2Proof.Machine
end

