-- ==== Sys2Proof/Laws/Display.lean ====
section
/-! SUPPORT. What the sprite loop of `44_display.md` R132 leaves: since a draw touches each cell at most once (R134), every
cell is XORed with "the sprite has a 1 on it", and the collision is "some such cell was lit before". -/

namespace Sys2Proof.Machine

/-- A cell after one toggle (R24). -/
theorem Framebuffer.cell_toggle (f : Framebuffer) (px : Fin 64) (py : Fin 32) (cx : Fin 64) (cy : Fin 32) :
    Framebuffer.cell (Framebuffer.toggle f px py) cx cy =
      (Framebuffer.cell f cx cy ^^ decide (cx = px ∧ cy = py)) := by
  simp only [Framebuffer.cell, Framebuffer.toggle, Fin.getElem_fin, Vector.getElem_set]
  by_cases hy : py.val = cy.val
  · have hy' : py = cy := Fin.ext hy
    subst hy'
    by_cases hx : px.val = cx.val
    · have hx' : px = cx := Fin.ext hx
      subst hx'
      simp
    · have : cx ≠ px := fun h => hx (h ▸ rfl)
      simp [this, show cx.val ≠ px.val from fun h => hx h.symm]
  · have : cy ≠ py := fun h => hy (h ▸ rfl)
    simp [hy, this]

/-- A cleared framebuffer has no lit cell (R131). -/
@[simp] theorem Framebuffer.cell_clear (cx : Fin 64) (cy : Fin 32) :
    Framebuffer.cell Framebuffer.clear cx cy = false := by
  simp [Framebuffer.cell, Framebuffer.clear]

/-- Framebuffers that agree on every cell are equal. -/
theorem Framebuffer.ext_cell {f g : Framebuffer}
    (h : ∀ cx cy, Framebuffer.cell f cx cy = Framebuffer.cell g cx cy) : f = g := by
  apply Vector.ext
  intro i hi
  apply BitVec.eq_of_getLsbD_eq
  intro j hj
  exact h ⟨j, hj⟩ ⟨i, hi⟩

/-- Toggle the listed cells one after the other, remembering whether a lit one was met. -/
def toggleAll (d : Drawing) (ps : List (Fin 64 × Fin 32)) : Drawing :=
  ps.foldl (fun d p => (Framebuffer.toggle d.1 p.1 p.2, d.2 || Framebuffer.cell d.1 p.1 p.2)) d

/-- With no cell listed twice, the result does not depend on the order (R134). -/
theorem toggleAll_spec (ps : List (Fin 64 × Fin 32)) (hn : ps.Nodup) (d : Drawing) :
    (∀ cx cy, Framebuffer.cell (toggleAll d ps).1 cx cy = (Framebuffer.cell d.1 cx cy ^^ decide ((cx, cy) ∈ ps))) ∧
      (toggleAll d ps).2 = (d.2 || ps.any fun p => Framebuffer.cell d.1 p.1 p.2) := by
  induction ps generalizing d with
  | nil => simp [toggleAll]
  | cons p rest ih =>
    obtain ⟨px, py⟩ := p
    have hn' := List.nodup_cons.mp hn
    obtain ⟨ih1, ih2⟩ := ih hn'.2 (Framebuffer.toggle d.1 px py, d.2 || Framebuffer.cell d.1 px py)
    have hstep : toggleAll d ((px, py) :: rest) =
        toggleAll (Framebuffer.toggle d.1 px py, d.2 || Framebuffer.cell d.1 px py) rest := rfl
    refine ⟨fun cx cy => ?_, ?_⟩
    · rw [hstep, ih1, Framebuffer.cell_toggle]
      by_cases hp : cx = px ∧ cy = py
      · obtain ⟨rfl, rfl⟩ := hp
        simp [hn'.1]
      · have : ((cx, cy) = (px, py)) = False := by simpa [Prod.ext_iff] using hp
        simp [List.mem_cons, this, hp]
    · rw [hstep, ih2]
      have hany : (rest.any fun p => Framebuffer.cell (Framebuffer.toggle d.1 px py) p.1 p.2) =
          rest.any fun p => Framebuffer.cell d.1 p.1 p.2 := by
        rw [Bool.eq_iff_iff, List.any_eq_true, List.any_eq_true]
        refine exists_congr fun q => and_congr_right fun hq => ?_
        have hne : ¬ (q.1 = px ∧ q.2 = py) := fun h => hn'.1 (by rwa [← h.1, ← h.2])
        rw [Framebuffer.cell_toggle]
        simp [hne]
      simp only [hany, List.any_cons, Bool.or_assoc]

/-- The cells a sprite row has a 1 on. -/
def rowPixels (vx vy : Byte) (row : Nat) (b : Byte) : List (Fin 64 × Fin 32) :=
  ((List.range 8).filter (spriteBit b)).map fun col => (pixelColumn vx col, pixelRow vy row)

/-- The cells the sprite rows from `row` on have a 1 on. -/
def spritePixels (vx vy : Byte) : Nat → List Byte → List (Fin 64 × Fin 32)
  | _, [] => []
  | row, b :: rest => rowPixels vx vy row b ++ spritePixels vx vy (row + 1) rest

theorem drawRow_eq (vx vy : Byte) (row : Nat) (b : Byte) (d : Drawing) :
    drawRow vx vy row b d = toggleAll d (rowPixels vx vy row b) := by
  unfold drawRow toggleAll rowPixels
  rw [List.foldl_map, List.foldl_filter]
  rfl

theorem drawRows_eq (vx vy : Byte) (row : Nat) (l : List Byte) (d : Drawing) :
    drawRows vx vy row l d = toggleAll d (spritePixels vx vy row l) := by
  induction l generalizing row d with
  | nil => rfl
  | cons b rest ih =>
    rw [drawRows, ih, drawRow_eq, spritePixels]
    simp [toggleAll, List.foldl_append]

/-- A cell is listed when some 1 bit of the sprite falls on it. -/
theorem mem_spritePixels (vx vy : Byte) (row : Nat) (l : List Byte) (cx : Fin 64) (cy : Fin 32) :
    (cx, cy) ∈ spritePixels vx vy row l ↔
      ∃ r col, ∃ h : r < l.length, col < 8 ∧ spriteBit l[r] col = true ∧
        pixelColumn vx col = cx ∧ pixelRow vy (row + r) = cy := by
  induction l generalizing row with
  | nil => simp [spritePixels]
  | cons b rest ih =>
    simp only [spritePixels, List.mem_append, ih, rowPixels, List.mem_map, List.mem_filter, List.mem_range,
      Prod.mk.injEq]
    constructor
    · rintro (⟨col, ⟨hc, hb⟩, hx, hy⟩ | ⟨r, col, h, hc, hb, hx, hy⟩)
      · exact ⟨0, col, by simp, hc, hb, hx, hy⟩
      · exact ⟨r + 1, col, by simpa using h, hc, by simpa using hb, hx, by rw [← hy]; congr 1; omega⟩
    · rintro ⟨r, col, h, hc, hb, hx, hy⟩
      cases r with
      | zero => exact .inl ⟨col, ⟨hc, hb⟩, hx, hy⟩
      | succ r =>
        exact .inr ⟨r, col, by simpa using h, hc, by simpa using hb, hx, by rw [← hy]; congr 1; omega⟩

/-- At most 32 rows: no cell is listed twice (R134). -/
theorem spritePixels_nodup (vx vy : Byte) (row : Nat) (l : List Byte) (h : l.length ≤ 32) :
    (spritePixels vx vy row l).Nodup := by
  induction l generalizing row with
  | nil => simp [spritePixels]
  | cons b rest ih =>
    rw [List.length_cons] at h
    rw [spritePixels, List.nodup_append]
    refine ⟨?_, ih _ (by omega), ?_⟩
    · refine List.Nodup.map_on ?_ (List.Nodup.filter _ List.nodup_range)
      intro c hc c' hc' he
      simp only [List.mem_filter, List.mem_range] at hc hc'
      have := congrArg (fun p => p.1.val) he
      simp only [pixelColumn] at this
      omega
    · rintro ⟨px, py⟩ hp ⟨qx, qy⟩ hq heq
      simp only [Prod.mk.injEq] at heq
      obtain ⟨rfl, rfl⟩ := heq
      simp only [rowPixels, List.mem_map, Prod.mk.injEq] at hp
      obtain ⟨c, -, -, hy⟩ := hp
      obtain ⟨r, c', hr, -, -, -, hy'⟩ := (mem_spritePixels _ _ _ _ _ _).mp hq
      have := congrArg Fin.val (hy.trans hy'.symm)
      simp only [pixelRow] at this
      omega

/-- The sprite loop, once and for all: the cells and the collision it leaves. -/
theorem drawRows_spec (vx vy : Byte) (l : List Byte) (h : l.length ≤ 32) (d : Drawing) :
    (∀ cx cy, Framebuffer.cell (drawRows vx vy 0 l d).1 cx cy =
      (Framebuffer.cell d.1 cx cy ^^ decide ((cx, cy) ∈ spritePixels vx vy 0 l))) ∧
    (drawRows vx vy 0 l d).2 = (d.2 || (spritePixels vx vy 0 l).any fun p => Framebuffer.cell d.1 p.1 p.2) := by
  rw [drawRows_eq]
  exact toggleAll_spec _ (spritePixels_nodup vx vy 0 l h) d

end Sys2Proof.Machine
end

