-- ==== Sys2Proof/Laws/Encoding.lean ====
section
/-! SUPPORT. The fields of an encoded word, and the masks of `30_encoding.md` R64 in terms of the fields. -/

namespace Sys2Proof

/-! ## Bits of the formats (R62) -/

theorem getLsbD_encodeNnn (f : BitVec 4) (a : Addr12) (i : Nat) :
    (encodeNnn f a).getLsbD i = if i < 12 then a.getLsbD i else f.getLsbD (i - 12) :=
  BitVec.getLsbD_append

theorem getLsbD_encodeXnn (f : BitVec 4) (x : Reg) (nn : Byte) (i : Nat) :
    (encodeXnn f x nn).getLsbD i = if i < 8 then nn.getLsbD i else
      if i - 8 < 4 then (BitVec.ofFin x : BitVec 4).getLsbD (i - 8) else f.getLsbD (i - 8 - 4) := by
  unfold encodeXnn
  rw [show ∀ (u : BitVec (4 + 4)) (v : Byte), BitVec.getLsbD (w := 16) (u ++ v) i =
    (if i < 8 then v.getLsbD i else u.getLsbD (i - 8)) from fun u v => BitVec.getLsbD_append]
  rw [show BitVec.getLsbD (f ++ (BitVec.ofFin x : BitVec 4)) (i - 8) = _ from BitVec.getLsbD_append]

theorem encodeXyn_eq (f : BitVec 4) (x y : Reg) (n : Nibble) :
    encodeXyn f x y n = encodeXnn f x ((BitVec.ofFin y : BitVec 4) ++ n) := by
  apply BitVec.eq_of_getLsbD_eq
  intro i hi
  rw [getLsbD_encodeXnn]
  unfold encodeXyn
  rw [show ∀ (u : BitVec (4 + 4 + 4)) (v : Nibble), BitVec.getLsbD (w := 16) (u ++ v) i =
    (if i < 4 then v.getLsbD i else u.getLsbD (i - 4)) from fun u v => BitVec.getLsbD_append]
  rw [show ∀ (u : BitVec (4 + 4)) (v : BitVec 4), BitVec.getLsbD (u ++ v) (i - 4) =
    (if i - 4 < 4 then v.getLsbD (i - 4) else u.getLsbD (i - 4 - 4)) from fun u v => BitVec.getLsbD_append]
  rw [show ∀ (u : BitVec 4) (v : BitVec 4), BitVec.getLsbD (w := 8) (u ++ v) i =
    (if i < 4 then v.getLsbD i else u.getLsbD (i - 4)) from fun u v => BitVec.getLsbD_append]
  rw [show ∀ (u : BitVec 4) (v : BitVec 4), BitVec.getLsbD (u ++ v) (i - 4 - 4) =
    (if i - 4 - 4 < 4 then v.getLsbD (i - 4 - 4) else u.getLsbD (i - 4 - 4 - 4)) from fun u v => BitVec.getLsbD_append]
  interval_cases i <;> rfl

/-! ## Fields of an encoded word (R61) -/

@[simp] theorem fam_encodeNnn (f : BitVec 4) (a : Addr12) : Word.fam (encodeNnn f a) = f := by
  apply BitVec.eq_of_getLsbD_eq
  intro i hi
  rw [Word.fam, BitVec.getLsbD_extractLsb', getLsbD_encodeNnn]
  interval_cases i <;> simp

@[simp] theorem nnn_encodeNnn (f : BitVec 4) (a : Addr12) : Word.nnn (encodeNnn f a) = a := by
  apply BitVec.eq_of_getLsbD_eq
  intro i hi
  rw [Word.nnn, BitVec.getLsbD_extractLsb', getLsbD_encodeNnn]
  simp [hi]

@[simp] theorem fam_encodeXnn (f : BitVec 4) (x : Reg) (nn : Byte) : Word.fam (encodeXnn f x nn) = f := by
  apply BitVec.eq_of_getLsbD_eq
  intro i hi
  rw [Word.fam, BitVec.getLsbD_extractLsb', getLsbD_encodeXnn]
  interval_cases i <;> simp

@[simp] theorem nn_encodeXnn (f : BitVec 4) (x : Reg) (nn : Byte) : Word.nn (encodeXnn f x nn) = nn := by
  apply BitVec.eq_of_getLsbD_eq
  intro i hi
  rw [Word.nn, BitVec.getLsbD_extractLsb', getLsbD_encodeXnn]
  simp [hi]

@[simp] theorem x_encodeXnn (f : BitVec 4) (x : Reg) (nn : Byte) : Word.x (encodeXnn f x nn) = x := by
  have h : (encodeXnn f x nn).extractLsb' 8 4 = BitVec.ofFin x := by
    apply BitVec.eq_of_getLsbD_eq
    intro i hi
    rw [BitVec.getLsbD_extractLsb', getLsbD_encodeXnn]
    interval_cases i <;> rfl
  rw [Word.x, h]

@[simp] theorem fam_encodeXyn (f : BitVec 4) (x y : Reg) (n : Nibble) : Word.fam (encodeXyn f x y n) = f := by
  rw [encodeXyn_eq, fam_encodeXnn]

@[simp] theorem x_encodeXyn (f : BitVec 4) (x y : Reg) (n : Nibble) : Word.x (encodeXyn f x y n) = x := by
  rw [encodeXyn_eq, x_encodeXnn]

@[simp] theorem n_encodeXyn (f : BitVec 4) (x y : Reg) (n : Nibble) : Word.n (encodeXyn f x y n) = n := by
  apply BitVec.eq_of_getLsbD_eq
  intro i hi
  rw [Word.n, encodeXyn_eq, BitVec.getLsbD_extractLsb', getLsbD_encodeXnn]
  rw [show ∀ (u : BitVec 4) (v : BitVec 4), BitVec.getLsbD (w := 8) (u ++ v) (0 + i) =
    (if 0 + i < 4 then v.getLsbD (0 + i) else u.getLsbD (0 + i - 4)) from fun u v => BitVec.getLsbD_append]
  interval_cases i <;> rfl

@[simp] theorem y_encodeXyn (f : BitVec 4) (x y : Reg) (n : Nibble) : Word.y (encodeXyn f x y n) = y := by
  have h : (encodeXyn f x y n).extractLsb' 4 4 = BitVec.ofFin y := by
    apply BitVec.eq_of_getLsbD_eq
    intro i hi
    rw [encodeXyn_eq, BitVec.getLsbD_extractLsb', getLsbD_encodeXnn]
    rw [show ∀ (u : BitVec 4) (v : BitVec 4), BitVec.getLsbD (w := 8) (u ++ v) (4 + i) =
      (if 4 + i < 4 then v.getLsbD (4 + i) else u.getLsbD (4 + i - 4)) from fun u v => BitVec.getLsbD_append]
    interval_cases i <;> rfl
  rw [Word.y, h]

/-! ## The masks of R64, on fields -/

/-- The four bits that follow `fam`, kept zero by every mask of R64 but 0xFFFF. -/
theorem and_F000 (op : Word) : op &&& 0xF000#16 = encodeXnn (Word.fam op) 0 0#8 := by
  apply BitVec.eq_of_getLsbD_eq
  intro i hi
  rw [getLsbD_encodeXnn]
  simp only [Word.fam, BitVec.getLsbD_extractLsb', BitVec.getLsbD_and]
  interval_cases i <;> simp

theorem and_F00F (op : Word) : op &&& 0xF00F#16 = encodeXyn (Word.fam op) 0 0 (Word.n op) := by
  apply BitVec.eq_of_getLsbD_eq
  intro i hi
  rw [encodeXyn_eq, getLsbD_encodeXnn]
  rw [show ∀ (u : BitVec 4) (v : BitVec 4), BitVec.getLsbD (w := 8) (u ++ v) i =
    (if i < 4 then v.getLsbD i else u.getLsbD (i - 4)) from fun u v => BitVec.getLsbD_append]
  simp only [Word.fam, Word.n, BitVec.getLsbD_extractLsb', BitVec.getLsbD_and]
  interval_cases i <;> simp

theorem and_F0FF (op : Word) : op &&& 0xF0FF#16 = encodeXnn (Word.fam op) 0 (Word.nn op) := by
  apply BitVec.eq_of_getLsbD_eq
  intro i hi
  rw [getLsbD_encodeXnn]
  simp only [Word.fam, Word.nn, BitVec.getLsbD_extractLsb', BitVec.getLsbD_and]
  interval_cases i <;> simp

theorem and_FFFF (op : Word) : op &&& 0xFFFF#16 = op := by
  apply BitVec.eq_of_getLsbD_eq
  intro i hi
  rw [BitVec.getLsbD_and]
  interval_cases i <;> simp

/-- A word is its fields, in format XNN. -/
theorem encodeXnn_fields (op : Word) : encodeXnn (Word.fam op) (Word.x op) (Word.nn op) = op := by
  apply BitVec.eq_of_getLsbD_eq
  intro i hi
  rw [getLsbD_encodeXnn]
  have hx : (BitVec.ofFin (Word.x op) : BitVec 4) = op.extractLsb' 8 4 := rfl
  rw [hx]
  simp only [Word.fam, Word.nn, BitVec.getLsbD_extractLsb']
  interval_cases i <;> rfl

/-- A word is its fields, in format NNN. -/
theorem encodeNnn_fields (op : Word) : encodeNnn (Word.fam op) (Word.nnn op) = op := by
  apply BitVec.eq_of_getLsbD_eq
  intro i hi
  rw [getLsbD_encodeNnn]
  simp only [Word.fam, Word.nnn, BitVec.getLsbD_extractLsb']
  interval_cases i <;> rfl

/-- A word is its fields, in format XYN. -/
theorem encodeXyn_fields (op : Word) : encodeXyn (Word.fam op) (Word.x op) (Word.y op) (Word.n op) = op := by
  have h : (BitVec.ofFin (Word.y op) : BitVec 4) ++ Word.n op = Word.nn op := by
    apply BitVec.eq_of_getLsbD_eq
    intro i hi
    have hy : (BitVec.ofFin (Word.y op) : BitVec 4) = op.extractLsb' 4 4 := rfl
    rw [show ∀ (u : BitVec 4) (v : BitVec 4), BitVec.getLsbD (w := 8) (u ++ v) i =
      (if i < 4 then v.getLsbD i else u.getLsbD (i - 4)) from fun u v => BitVec.getLsbD_append, hy]
    simp only [Word.n, Word.nn, BitVec.getLsbD_extractLsb']
    interval_cases i <;> rfl
  rw [encodeXyn_eq]
  exact (congrArg _ h).trans (encodeXnn_fields op)

/-! ## Decoding, family by family (R65) -/

/-- A family is one of sixteen. -/
theorem fam_cases (f : BitVec 4) : f = 0x0#4 ∨ f = 0x1#4 ∨ f = 0x2#4 ∨ f = 0x3#4 ∨ f = 0x4#4 ∨ f = 0x5#4 ∨ f = 0x6#4 ∨
    f = 0x7#4 ∨ f = 0x8#4 ∨ f = 0x9#4 ∨ f = 0xA#4 ∨ f = 0xB#4 ∨ f = 0xC#4 ∨ f = 0xD#4 ∨ f = 0xE#4 ∨ f = 0xF#4 := by
  revert f
  decide

theorem decode_fam0 {op : Word} (h : Word.fam op = 0x0#4) : decode op = decodeFamily0 op := by
  simp [decode, h]

theorem decode_fam1 {op : Word} (h : Word.fam op = 0x1#4) : decode op = .jp (Word.nnn op) := by
  simp [decode, h]

theorem decode_fam2 {op : Word} (h : Word.fam op = 0x2#4) : decode op = .call (Word.nnn op) := by
  simp [decode, h]

theorem decode_fam3 {op : Word} (h : Word.fam op = 0x3#4) : decode op = .seImm (Word.x op) (Word.nn op) := by
  simp [decode, h]

theorem decode_fam4 {op : Word} (h : Word.fam op = 0x4#4) : decode op = .sneImm (Word.x op) (Word.nn op) := by
  simp [decode, h]

theorem decode_fam5 {op : Word} (h : Word.fam op = 0x5#4) : decode op = if Word.n op = 0x0#4 then .seReg (Word.x op) (Word.y op) else .undef op := by
  simp [decode, h]

theorem decode_fam6 {op : Word} (h : Word.fam op = 0x6#4) : decode op = .ldImm (Word.x op) (Word.nn op) := by
  simp [decode, h]

theorem decode_fam7 {op : Word} (h : Word.fam op = 0x7#4) : decode op = .addImm (Word.x op) (Word.nn op) := by
  simp [decode, h]

theorem decode_fam8 {op : Word} (h : Word.fam op = 0x8#4) : decode op = decodeFamily8 op := by
  simp [decode, h]

theorem decode_fam9 {op : Word} (h : Word.fam op = 0x9#4) : decode op = if Word.n op = 0x0#4 then .sneReg (Word.x op) (Word.y op) else .undef op := by
  simp [decode, h]

theorem decode_famA {op : Word} (h : Word.fam op = 0xA#4) : decode op = .ldI (Word.nnn op) := by
  simp [decode, h]

theorem decode_famB {op : Word} (h : Word.fam op = 0xB#4) : decode op = .jpV0 (Word.nnn op) := by
  simp [decode, h]

theorem decode_famC {op : Word} (h : Word.fam op = 0xC#4) : decode op = .rnd (Word.x op) (Word.nn op) := by
  simp [decode, h]

theorem decode_famD {op : Word} (h : Word.fam op = 0xD#4) : decode op = .drw (Word.x op) (Word.y op) (Word.n op) := by
  simp [decode, h]

theorem decode_famE {op : Word} (h : Word.fam op = 0xE#4) : decode op = decodeFamilyE op := by
  simp [decode, h]

theorem decode_famF {op : Word} (h : Word.fam op = 0xF#4) : decode op = decodeFamilyF op := by
  simp [decode, h]

end Sys2Proof
end

