-- ==== Sys2Proof/Laws/PerInstr.lean ====
section
/-! SUPPORT. The family OwnRow: for every instruction, the row of `30_encoding.md` R64 its word matches is its own, and an
UNDEF's word matches none. -/

namespace Sys2Proof

/-- A row with mask 0xF000 compares `fam`. -/
theorem matchesWord_F000 (name : String) (m op : Word) (h : m &&& 0xF000#16 = m) :
    OpcodeRow.matchesWord ⟨name, m, 0xF000#16⟩ op = (Word.fam op == Word.fam m) := by
  rw [OpcodeRow.matchesWord, Bool.eq_iff_iff, beq_iff_eq, beq_iff_eq, and_F000]
  constructor
  · intro e
    rw [← show encodeXnn (Word.fam op) 0 0#8 = m from e, fam_encodeXnn]
  · intro e
    rw [e, ← and_F000, h]

/-- A row with mask 0xF00F compares `fam` and `n`. -/
theorem matchesWord_F00F (name : String) (m op : Word) (h : m &&& 0xF00F#16 = m) :
    OpcodeRow.matchesWord ⟨name, m, 0xF00F#16⟩ op = (Word.fam op == Word.fam m && Word.n op == Word.n m) := by
  rw [OpcodeRow.matchesWord, Bool.eq_iff_iff, Bool.and_eq_true, beq_iff_eq, beq_iff_eq, beq_iff_eq, and_F00F]
  constructor
  · intro e
    rw [← show encodeXyn (Word.fam op) 0 0 (Word.n op) = m from e, fam_encodeXyn, n_encodeXyn]
    exact ⟨rfl, rfl⟩
  · rintro ⟨e, e'⟩
    rw [e, e', ← and_F00F, h]

/-- A row with mask 0xF0FF compares `fam` and `nn`. -/
theorem matchesWord_F0FF (name : String) (m op : Word) (h : m &&& 0xF0FF#16 = m) :
    OpcodeRow.matchesWord ⟨name, m, 0xF0FF#16⟩ op = (Word.fam op == Word.fam m && Word.nn op == Word.nn m) := by
  rw [OpcodeRow.matchesWord, Bool.eq_iff_iff, Bool.and_eq_true, beq_iff_eq, beq_iff_eq, beq_iff_eq, and_F0FF]
  constructor
  · intro e
    rw [← show encodeXnn (Word.fam op) 0 (Word.nn op) = m from e, fam_encodeXnn, nn_encodeXnn]
    exact ⟨rfl, rfl⟩
  · rintro ⟨e, e'⟩
    rw [e, e', ← and_F0FF, h]

/-- A row with mask 0xFFFF compares the whole word: `fam` and `nnn`. -/
theorem matchesWord_FFFF (name : String) (m op : Word) :
    OpcodeRow.matchesWord ⟨name, m, 0xFFFF#16⟩ op = (Word.fam op == Word.fam m && Word.nnn op == Word.nnn m) := by
  rw [OpcodeRow.matchesWord, Bool.eq_iff_iff, Bool.and_eq_true, beq_iff_eq, beq_iff_eq, beq_iff_eq, and_FFFF]
  constructor
  · rintro rfl
    exact ⟨rfl, rfl⟩
  · rintro ⟨e, e'⟩
    rw [← encodeNnn_fields op, ← encodeNnn_fields m, e, e']

/-- The table is its two halves. -/
theorem forall_opcodeTable (p : OpcodeRow → Prop) :
    (∀ r ∈ opcodeTable, p r) ↔ (∀ r ∈ opcodeRowsLow, p r) ∧ ∀ r ∈ opcodeRowsHigh, p r := by
  simp [opcodeTable, or_imp, forall_and]

end Sys2Proof

namespace Sys2Proof.Laws.OwnRow

/-- The word of a well-formed instruction matches exactly the row of R64 that carries its mnemonic (none, for UNDEF). -/
def Statement (i : Instr) : Prop :=
  WellFormed i = true → ∀ r ∈ opcodeTable, (r.matchesWord (encode i) = true ↔ r.mnemonic = i.mnemonic)

theorem cls : Statement .cls := by
  intro _
  rw [forall_opcodeTable]
  simp (disch := decide) [opcodeRowsLow, opcodeRowsHigh, matchesWord_F000, matchesWord_F00F, matchesWord_F0FF,
    matchesWord_FFFF, encode, Instr.mnemonic]
  simp [Word.fam, Word.n, Word.nn, Word.nnn]

theorem ret : Statement .ret := by
  intro _
  rw [forall_opcodeTable]
  simp (disch := decide) [opcodeRowsLow, opcodeRowsHigh, matchesWord_F000, matchesWord_F00F, matchesWord_F0FF,
    matchesWord_FFFF, encode, Instr.mnemonic]
  simp [Word.fam, Word.n, Word.nn, Word.nnn]

theorem jp (nnn : Addr12) : Statement (.jp nnn) := by
  intro _
  rw [forall_opcodeTable]
  simp (disch := decide) [opcodeRowsLow, opcodeRowsHigh, matchesWord_F000, matchesWord_F00F, matchesWord_F0FF,
    matchesWord_FFFF, encode, Instr.mnemonic]
  simp [Word.fam, Word.n, Word.nn, Word.nnn]

theorem call (nnn : Addr12) : Statement (.call nnn) := by
  intro _
  rw [forall_opcodeTable]
  simp (disch := decide) [opcodeRowsLow, opcodeRowsHigh, matchesWord_F000, matchesWord_F00F, matchesWord_F0FF,
    matchesWord_FFFF, encode, Instr.mnemonic]
  simp [Word.fam, Word.n, Word.nn, Word.nnn]

theorem seImm (x : Reg) (nn : Byte) : Statement (.seImm x nn) := by
  intro _
  rw [forall_opcodeTable]
  simp (disch := decide) [opcodeRowsLow, opcodeRowsHigh, matchesWord_F000, matchesWord_F00F, matchesWord_F0FF,
    matchesWord_FFFF, encode, Instr.mnemonic]
  simp [Word.fam, Word.n, Word.nn, Word.nnn]

theorem sneImm (x : Reg) (nn : Byte) : Statement (.sneImm x nn) := by
  intro _
  rw [forall_opcodeTable]
  simp (disch := decide) [opcodeRowsLow, opcodeRowsHigh, matchesWord_F000, matchesWord_F00F, matchesWord_F0FF,
    matchesWord_FFFF, encode, Instr.mnemonic]
  simp [Word.fam, Word.n, Word.nn, Word.nnn]

theorem seReg (x y : Reg) : Statement (.seReg x y) := by
  intro _
  rw [forall_opcodeTable]
  simp (disch := decide) [opcodeRowsLow, opcodeRowsHigh, matchesWord_F000, matchesWord_F00F, matchesWord_F0FF,
    matchesWord_FFFF, encode, Instr.mnemonic]
  simp [Word.fam, Word.n, Word.nn, Word.nnn]

theorem ldImm (x : Reg) (nn : Byte) : Statement (.ldImm x nn) := by
  intro _
  rw [forall_opcodeTable]
  simp (disch := decide) [opcodeRowsLow, opcodeRowsHigh, matchesWord_F000, matchesWord_F00F, matchesWord_F0FF,
    matchesWord_FFFF, encode, Instr.mnemonic]
  simp [Word.fam, Word.n, Word.nn, Word.nnn]

theorem addImm (x : Reg) (nn : Byte) : Statement (.addImm x nn) := by
  intro _
  rw [forall_opcodeTable]
  simp (disch := decide) [opcodeRowsLow, opcodeRowsHigh, matchesWord_F000, matchesWord_F00F, matchesWord_F0FF,
    matchesWord_FFFF, encode, Instr.mnemonic]
  simp [Word.fam, Word.n, Word.nn, Word.nnn]

theorem ldReg (x y : Reg) : Statement (.ldReg x y) := by
  intro _
  rw [forall_opcodeTable]
  simp (disch := decide) [opcodeRowsLow, opcodeRowsHigh, matchesWord_F000, matchesWord_F00F, matchesWord_F0FF,
    matchesWord_FFFF, encode, Instr.mnemonic]
  simp [Word.fam, Word.n, Word.nn, Word.nnn]

theorem orReg (x y : Reg) : Statement (.orReg x y) := by
  intro _
  rw [forall_opcodeTable]
  simp (disch := decide) [opcodeRowsLow, opcodeRowsHigh, matchesWord_F000, matchesWord_F00F, matchesWord_F0FF,
    matchesWord_FFFF, encode, Instr.mnemonic]
  simp [Word.fam, Word.n, Word.nn, Word.nnn]

theorem andReg (x y : Reg) : Statement (.andReg x y) := by
  intro _
  rw [forall_opcodeTable]
  simp (disch := decide) [opcodeRowsLow, opcodeRowsHigh, matchesWord_F000, matchesWord_F00F, matchesWord_F0FF,
    matchesWord_FFFF, encode, Instr.mnemonic]
  simp [Word.fam, Word.n, Word.nn, Word.nnn]

theorem xorReg (x y : Reg) : Statement (.xorReg x y) := by
  intro _
  rw [forall_opcodeTable]
  simp (disch := decide) [opcodeRowsLow, opcodeRowsHigh, matchesWord_F000, matchesWord_F00F, matchesWord_F0FF,
    matchesWord_FFFF, encode, Instr.mnemonic]
  simp [Word.fam, Word.n, Word.nn, Word.nnn]

theorem addReg (x y : Reg) : Statement (.addReg x y) := by
  intro _
  rw [forall_opcodeTable]
  simp (disch := decide) [opcodeRowsLow, opcodeRowsHigh, matchesWord_F000, matchesWord_F00F, matchesWord_F0FF,
    matchesWord_FFFF, encode, Instr.mnemonic]
  simp [Word.fam, Word.n, Word.nn, Word.nnn]

theorem sub (x y : Reg) : Statement (.sub x y) := by
  intro _
  rw [forall_opcodeTable]
  simp (disch := decide) [opcodeRowsLow, opcodeRowsHigh, matchesWord_F000, matchesWord_F00F, matchesWord_F0FF,
    matchesWord_FFFF, encode, Instr.mnemonic]
  simp [Word.fam, Word.n, Word.nn, Word.nnn]

theorem shr (x y : Reg) : Statement (.shr x y) := by
  intro _
  rw [forall_opcodeTable]
  simp (disch := decide) [opcodeRowsLow, opcodeRowsHigh, matchesWord_F000, matchesWord_F00F, matchesWord_F0FF,
    matchesWord_FFFF, encode, Instr.mnemonic]
  simp [Word.fam, Word.n, Word.nn, Word.nnn]

theorem subn (x y : Reg) : Statement (.subn x y) := by
  intro _
  rw [forall_opcodeTable]
  simp (disch := decide) [opcodeRowsLow, opcodeRowsHigh, matchesWord_F000, matchesWord_F00F, matchesWord_F0FF,
    matchesWord_FFFF, encode, Instr.mnemonic]
  simp [Word.fam, Word.n, Word.nn, Word.nnn]

theorem shl (x y : Reg) : Statement (.shl x y) := by
  intro _
  rw [forall_opcodeTable]
  simp (disch := decide) [opcodeRowsLow, opcodeRowsHigh, matchesWord_F000, matchesWord_F00F, matchesWord_F0FF,
    matchesWord_FFFF, encode, Instr.mnemonic]
  simp [Word.fam, Word.n, Word.nn, Word.nnn]

theorem sneReg (x y : Reg) : Statement (.sneReg x y) := by
  intro _
  rw [forall_opcodeTable]
  simp (disch := decide) [opcodeRowsLow, opcodeRowsHigh, matchesWord_F000, matchesWord_F00F, matchesWord_F0FF,
    matchesWord_FFFF, encode, Instr.mnemonic]
  simp [Word.fam, Word.n, Word.nn, Word.nnn]

theorem ldI (nnn : Addr12) : Statement (.ldI nnn) := by
  intro _
  rw [forall_opcodeTable]
  simp (disch := decide) [opcodeRowsLow, opcodeRowsHigh, matchesWord_F000, matchesWord_F00F, matchesWord_F0FF,
    matchesWord_FFFF, encode, Instr.mnemonic]
  simp [Word.fam, Word.n, Word.nn, Word.nnn]

theorem jpV0 (nnn : Addr12) : Statement (.jpV0 nnn) := by
  intro _
  rw [forall_opcodeTable]
  simp (disch := decide) [opcodeRowsLow, opcodeRowsHigh, matchesWord_F000, matchesWord_F00F, matchesWord_F0FF,
    matchesWord_FFFF, encode, Instr.mnemonic]
  simp [Word.fam, Word.n, Word.nn, Word.nnn]

theorem rnd (x : Reg) (nn : Byte) : Statement (.rnd x nn) := by
  intro _
  rw [forall_opcodeTable]
  simp (disch := decide) [opcodeRowsLow, opcodeRowsHigh, matchesWord_F000, matchesWord_F00F, matchesWord_F0FF,
    matchesWord_FFFF, encode, Instr.mnemonic]
  simp [Word.fam, Word.n, Word.nn, Word.nnn]

theorem drw (x y : Reg) (n : Nibble) : Statement (.drw x y n) := by
  intro _
  rw [forall_opcodeTable]
  simp (disch := decide) [opcodeRowsLow, opcodeRowsHigh, matchesWord_F000, matchesWord_F00F, matchesWord_F0FF,
    matchesWord_FFFF, encode, Instr.mnemonic]
  simp [Word.fam, Word.n, Word.nn, Word.nnn]

theorem skp (x : Reg) : Statement (.skp x) := by
  intro _
  rw [forall_opcodeTable]
  simp (disch := decide) [opcodeRowsLow, opcodeRowsHigh, matchesWord_F000, matchesWord_F00F, matchesWord_F0FF,
    matchesWord_FFFF, encode, Instr.mnemonic]
  simp [Word.fam, Word.n, Word.nn, Word.nnn]

theorem sknp (x : Reg) : Statement (.sknp x) := by
  intro _
  rw [forall_opcodeTable]
  simp (disch := decide) [opcodeRowsLow, opcodeRowsHigh, matchesWord_F000, matchesWord_F00F, matchesWord_F0FF,
    matchesWord_FFFF, encode, Instr.mnemonic]
  simp [Word.fam, Word.n, Word.nn, Word.nnn]

theorem ldVxDt (x : Reg) : Statement (.ldVxDt x) := by
  intro _
  rw [forall_opcodeTable]
  simp (disch := decide) [opcodeRowsLow, opcodeRowsHigh, matchesWord_F000, matchesWord_F00F, matchesWord_F0FF,
    matchesWord_FFFF, encode, Instr.mnemonic]
  simp [Word.fam, Word.n, Word.nn, Word.nnn]

theorem ldVxK (x : Reg) : Statement (.ldVxK x) := by
  intro _
  rw [forall_opcodeTable]
  simp (disch := decide) [opcodeRowsLow, opcodeRowsHigh, matchesWord_F000, matchesWord_F00F, matchesWord_F0FF,
    matchesWord_FFFF, encode, Instr.mnemonic]
  simp [Word.fam, Word.n, Word.nn, Word.nnn]

theorem ldDtVx (x : Reg) : Statement (.ldDtVx x) := by
  intro _
  rw [forall_opcodeTable]
  simp (disch := decide) [opcodeRowsLow, opcodeRowsHigh, matchesWord_F000, matchesWord_F00F, matchesWord_F0FF,
    matchesWord_FFFF, encode, Instr.mnemonic]
  simp [Word.fam, Word.n, Word.nn, Word.nnn]

theorem ldStVx (x : Reg) : Statement (.ldStVx x) := by
  intro _
  rw [forall_opcodeTable]
  simp (disch := decide) [opcodeRowsLow, opcodeRowsHigh, matchesWord_F000, matchesWord_F00F, matchesWord_F0FF,
    matchesWord_FFFF, encode, Instr.mnemonic]
  simp [Word.fam, Word.n, Word.nn, Word.nnn]

theorem addI (x : Reg) : Statement (.addI x) := by
  intro _
  rw [forall_opcodeTable]
  simp (disch := decide) [opcodeRowsLow, opcodeRowsHigh, matchesWord_F000, matchesWord_F00F, matchesWord_F0FF,
    matchesWord_FFFF, encode, Instr.mnemonic]
  simp [Word.fam, Word.n, Word.nn, Word.nnn]

theorem ldF (x : Reg) : Statement (.ldF x) := by
  intro _
  rw [forall_opcodeTable]
  simp (disch := decide) [opcodeRowsLow, opcodeRowsHigh, matchesWord_F000, matchesWord_F00F, matchesWord_F0FF,
    matchesWord_FFFF, encode, Instr.mnemonic]
  simp [Word.fam, Word.n, Word.nn, Word.nnn]

theorem bcd (x : Reg) : Statement (.bcd x) := by
  intro _
  rw [forall_opcodeTable]
  simp (disch := decide) [opcodeRowsLow, opcodeRowsHigh, matchesWord_F000, matchesWord_F00F, matchesWord_F0FF,
    matchesWord_FFFF, encode, Instr.mnemonic]
  simp [Word.fam, Word.n, Word.nn, Word.nnn]

theorem stRegs (x : Reg) : Statement (.stRegs x) := by
  intro _
  rw [forall_opcodeTable]
  simp (disch := decide) [opcodeRowsLow, opcodeRowsHigh, matchesWord_F000, matchesWord_F00F, matchesWord_F0FF,
    matchesWord_FFFF, encode, Instr.mnemonic]
  simp [Word.fam, Word.n, Word.nn, Word.nnn]

theorem ldRegs (x : Reg) : Statement (.ldRegs x) := by
  intro _
  rw [forall_opcodeTable]
  simp (disch := decide) [opcodeRowsLow, opcodeRowsHigh, matchesWord_F000, matchesWord_F00F, matchesWord_F0FF,
    matchesWord_FFFF, encode, Instr.mnemonic]
  simp [Word.fam, Word.n, Word.nn, Word.nnn]

theorem undef (op : Word) : Statement (.undef op) := by
  intro hwf r hr
  have hno : r.matchesWord op = false := by
    have h : (opcodeTable.any fun r => r.matchesWord op) = false := by simpa [WellFormed, recognised] using hwf
    simpa using List.any_eq_false.mp h r hr
  have hname : ∀ r ∈ opcodeTable, r.mnemonic ≠ "UNDEF" := by decide
  simp [encode, hno, Instr.mnemonic, hname r hr]

end Sys2Proof.Laws.OwnRow
end

