-- ==== Sys2Proof/Tests/Slice0.lean ====
section
/-! SUPPORT. The model's own tests: expected results are the vectors of `95_test_vectors.md` (named in each comment) or
words written out from `30_encoding.md` R64; and, for every statement with hypotheses, states and operands that meet them. -/

namespace Sys2Proof.Tests

open Sys2Proof.Machine

/-! ## Helpers -/

/-- The state after one STEP of the word `op` at PC, if it completes. -/
def after (op : Nat) (s : State) : Option State :=
  match step (s.withFetchWord 16 op) with
  | .next t => some t
  | _ => none

/-- The error of one STEP of the word `op` at PC: code, info, and PC afterwards. -/
def errorOf (op : Nat) (s : State) : Option (BitVec 3 × Option Nat × Word) :=
  match step (s.withFetchWord 16 op) with
  | .fault f => some (f.code, f.info, f.after.pc)
  | _ => none

/-- Registers read off a result. -/
def regs (o : Option State) (rs : List Reg) : Option (List Byte) := o.map fun t => rs.map t.getV

/-- PC read off a result. -/
def pcOf (o : Option State) : Option Word := o.map fun t => t.pc

/-- Bytes read off a result. -/
def bytes (o : Option State) (a n : Nat) : Option (List Byte) := o.map fun t => t.readBytes a n

/-- The framebuffer in which exactly the listed (column, row) cells are lit. -/
def litCells (cs : List (Fin 64 × Fin 32)) : Framebuffer :=
  cs.foldl (fun f c => Framebuffer.toggle f c.1 c.2) Framebuffer.clear

/-! ## WellFormed: the one check, and a term it refuses -/

theorem test_wf_refuses_undef_of_a_recognised_word : WellFormed (.undef 0x00E0#16) = false := by decide
theorem test_wf_accepts_undef_of_an_unrecognised_word : WellFormed (.undef 0x801F#16) = true := by decide
theorem test_wf_accepts_recognised : WellFormed (.drw 1 2 5#4) = true := by decide

/-! ## Decoding: one word per constructor, from R64 and T-S.2, T-S.8 -/

theorem test_decode_cls : decodeTableWord 16 0x00E0 = some .cls := by decide
theorem test_decode_ret : decodeTableWord 16 0x00EE = some .ret := by decide
theorem test_decode_jp : decodeTableWord 16 0x1234 = some (.jp 0x234#12) := by decide
theorem test_decode_call : decodeTableWord 16 0x2ABC = some (.call 0xABC#12) := by decide
theorem test_decode_seImm : decodeTableWord 16 0x3F01 = some (.seImm 15 0x01#8) := by decide
theorem test_decode_sneImm : decodeTableWord 16 0x4311 = some (.sneImm 3 0x11#8) := by decide
theorem test_decode_seReg : decodeTableWord 16 0x5120 = some (.seReg 1 2) := by decide
theorem test_decode_ldImm : decodeTableWord 16 0x6A2F = some (.ldImm 10 0x2F#8) := by decide
theorem test_decode_addImm : decodeTableWord 16 0x70FF = some (.addImm 0 0xFF#8) := by decide
theorem test_decode_ldReg : decodeTableWord 16 0x8AF0 = some (.ldReg 10 15) := by decide
theorem test_decode_orReg : decodeTableWord 16 0x8121 = some (.orReg 1 2) := by decide
theorem test_decode_andReg : decodeTableWord 16 0x8122 = some (.andReg 1 2) := by decide
theorem test_decode_xorReg : decodeTableWord 16 0x8123 = some (.xorReg 1 2) := by decide
theorem test_decode_addReg : decodeTableWord 16 0x8F14 = some (.addReg 15 1) := by decide
theorem test_decode_sub : decodeTableWord 16 0x8015 = some (.sub 0 1) := by decide
theorem test_decode_shr : decodeTableWord 16 0x8316 = some (.shr 3 1) := by decide
theorem test_decode_subn : decodeTableWord 16 0x80F7 = some (.subn 0 15) := by decide
theorem test_decode_shl : decodeTableWord 16 0x831E = some (.shl 3 1) := by decide
theorem test_decode_sneReg : decodeTableWord 16 0x9120 = some (.sneReg 1 2) := by decide
theorem test_decode_ldI : decodeTableWord 16 0xA2F0 = some (.ldI 0x2F0#12) := by decide
theorem test_decode_jpV0 : decodeTableWord 16 0xB234 = some (.jpV0 0x234#12) := by decide
theorem test_decode_rnd : decodeTableWord 16 0xC30F = some (.rnd 3 0x0F#8) := by decide
theorem test_decode_drw : decodeTableWord 16 0xD7A5 = some (.drw 7 10 5#4) := by decide
theorem test_decode_skp : decodeTableWord 16 0xE59E = some (.skp 5) := by decide
theorem test_decode_sknp : decodeTableWord 16 0xE5A1 = some (.sknp 5) := by decide
theorem test_decode_ldVxDt : decodeTableWord 16 0xF207 = some (.ldVxDt 2) := by decide
theorem test_decode_ldVxK : decodeTableWord 16 0xF30A = some (.ldVxK 3) := by decide
theorem test_decode_ldDtVx : decodeTableWord 16 0xF215 = some (.ldDtVx 2) := by decide
theorem test_decode_ldStVx : decodeTableWord 16 0xF218 = some (.ldStVx 2) := by decide
theorem test_decode_addI : decodeTableWord 16 0xF11E = some (.addI 1) := by decide
theorem test_decode_ldF : decodeTableWord 16 0xF429 = some (.ldF 4) := by decide
theorem test_decode_bcd : decodeTableWord 16 0xF533 = some (.bcd 5) := by decide
theorem test_decode_stRegs : decodeTableWord 16 0xF255 = some (.stRegs 2) := by decide
theorem test_decode_ldRegs : decodeTableWord 16 0xF265 = some (.ldRegs 2) := by decide
theorem test_decode_undef : [0x0000, 0x00E1, 0x01E0, 0x0FEE, 0x0123, 0x5121, 0x9ABF, 0x8008, 0x801F, 0xE09F, 0xE1A2,
    0xF085, 0xF11F, 0xF1FF].all (fun w => decodeTableWord 16 w == some (.undef (BitVec.ofNat 16 w))) = true := by decide
theorem test_decode_truncated : decodeBytes [0x12#8] = .error .truncated := by decide
theorem test_encode_bytes_big_endian : encodeBytes (.drw 7 10 5#4) = [0xD7#8, 0xA5#8] := by decide

/-! ## Fetch, UNDEF (T-S.1, T-S.3 to T-S.8) -/

theorem test_fetch_is_big_endian : pcOf (after 0x1234 State.reset) = some 0x0234#16 := by decide
theorem test_undef_at_the_last_address : pcOf (after 0x0000 (State.reset.setPc 0x0FFE#16)) = some 0x1000#16 := by decide
theorem test_fetch_bound : (match step (State.reset.setPc 0x0FFF#16) with
    | .fault f => some (f.code, f.info, f.after == State.reset.setPc 0x0FFF#16)
    | _ => none) = some (4#3, some 0x1000, true) := by decide
theorem test_odd_pc : (after 0x6A2F (State.reset.setPc 0x0203#16)).map (fun t => (t.getV 10, t.pc)) =
    some (0x2F#8, 0x0205#16) := by decide

/-! ## Control flow (T-C) -/

theorem test_jp_odd_target : pcOf (after 0x1203 State.reset) = some 0x0203#16 := by decide
theorem test_call_sixteenth : (after 0x2ABC { State.reset with pc := 0x400#16, sp := 15 }).map
    (fun t => (t.stack[15], t.sp, t.pc)) = some (0x0402#16, 16, 0x0ABC#16) := by decide
theorem test_call_overflow : errorOf 0x2ABC { State.reset with pc := 0x400#16, sp := 16 } =
    some (2#3, some 0xABC, 0x0402#16) := by decide
theorem test_ret_pops : (after 0x00EE { State.reset with pc := 0x300#16, sp := 16, stack := Vector.replicate 16 0x0456#16 }).map
    (fun t => (t.sp, t.pc, t.stack[15])) = some (15, 0x0456#16, 0x0456#16) := by decide
theorem test_ret_underflow : errorOf 0x00EE (State.reset.setPc 0x300#16) = some (3#3, none, 0x0302#16) := by decide
theorem test_jpV0_no_mask : pcOf (after 0xBFFF (State.reset.setV 0 0xFF#8)) = some 0x10FE#16 := by decide
theorem test_jpV0_uses_v0 : pcOf (after 0xB234 ((State.reset.setV 0 0x10#8).setV 2 0x80#8)) = some 0x0244#16 := by decide
theorem test_seImm_at_the_end : pcOf (after 0x3000 (State.reset.setPc 0x0FFE#16)) = some 0x1002#16 := by decide
theorem test_seImm_not_taken : pcOf (after 0x3F01 State.reset) = some 0x0202#16 := by decide
theorem test_sneImm_taken : pcOf (after 0x4311 (State.reset.setV 3 0x10#8)) = some 0x0204#16 := by decide
theorem test_sneImm_not_taken : pcOf (after 0x4310 (State.reset.setV 3 0x10#8)) = some 0x0202#16 := by decide
theorem test_seReg_taken : pcOf (after 0x5330 (State.reset.setV 3 0x77#8)) = some 0x0204#16 := by decide
theorem test_seReg_not_taken : pcOf (after 0x5120 ((State.reset.setV 1 0x01#8).setV 2 0x02#8)) = some 0x0202#16 := by decide
theorem test_sneReg_taken : pcOf (after 0x9120 ((State.reset.setV 1 0x01#8).setV 2 0x02#8)) = some 0x0204#16 := by decide
theorem test_sneReg_not_taken : pcOf (after 0x9330 (State.reset.setV 3 0x77#8)) = some 0x0202#16 := by decide

/-! ## Load and ALU (T6, T7, T8, TC) -/

theorem test_ldImm_vf : regs (after 0x6FAB (State.reset.setV 15 0x01#8)) [15] = some [0xAB#8] := by decide
theorem test_addImm_wraps_without_flag :
    regs (after 0x7201 ((State.reset.setV 2 0xFF#8).setV 15 0x5A#8)) [2, 15] = some [0x00#8, 0x5A#8] := by decide
theorem test_ldReg : regs (after 0x8010 (State.reset.setV 1 0x33#8)) [0, 1] = some [0x33#8, 0x33#8] := by decide
theorem test_or_leaves_vf : regs (after 0x8011 (((State.reset.setV 0 0xF3#8).setV 1 0x3C#8).setV 15 0x5A#8)) [0, 15] =
    some [0xFF#8, 0x5A#8] := by decide
theorem test_and_leaves_vf : regs (after 0x8012 (((State.reset.setV 0 0xF3#8).setV 1 0x3C#8).setV 15 0x5A#8)) [0, 15] =
    some [0x30#8, 0x5A#8] := by decide
theorem test_xor_leaves_vf : regs (after 0x8013 (((State.reset.setV 0 0xF3#8).setV 1 0x3C#8).setV 15 0x5A#8)) [0, 15] =
    some [0xCF#8, 0x5A#8] := by decide
theorem test_add_sum_255_is_no_carry :
    regs (after 0x8014 ((State.reset.setV 0 0x7F#8).setV 1 0x80#8)) [0, 15] = some [0xFF#8, 0x00#8] := by decide
theorem test_add_flag_last : regs (after 0x8F14 ((State.reset.setV 15 0xF0#8).setV 1 0x20#8)) [15] = some [0x01#8] := by
  decide
theorem test_sub_equal_is_no_borrow :
    regs (after 0x8015 ((State.reset.setV 0 0x07#8).setV 1 0x07#8)) [0, 15] = some [0x00#8, 0x01#8] := by decide
theorem test_sub_borrow : regs (after 0x8015 ((State.reset.setV 0 0x03#8).setV 1 0x05#8)) [0, 15] =
    some [0xFE#8, 0x00#8] := by decide
theorem test_shr_flag_is_of_the_value :
    regs (after 0x8316 ((State.reset.setV 3 0x04#8).setV 1 0xFF#8)) [3, 15, 1] = some [0x02#8, 0x00#8, 0xFF#8] := by decide
theorem test_shr_flag_last : regs (after 0x8F06 (State.reset.setV 15 0x05#8)) [15] = some [0x01#8] := by decide
theorem test_subn_is_vy_minus_vx : regs (after 0x8017 ((State.reset.setV 0 0x03#8).setV 1 0x05#8)) [0, 15, 1] =
    some [0x02#8, 0x01#8, 0x05#8] := by decide
theorem test_subn_borrow : regs (after 0x8017 ((State.reset.setV 0 0x05#8).setV 1 0x03#8)) [0, 15] =
    some [0xFE#8, 0x00#8] := by decide
theorem test_shl_flag_is_of_the_value : regs (after 0x820E (State.reset.setV 2 0x81#8)) [2, 15] = some [0x02#8, 0x01#8] := by
  decide
theorem test_shl_flag_last : regs (after 0x8F0E (State.reset.setV 15 0x01#8)) [15] = some [0x00#8] := by decide
/-- TC.2: with nn = 0 the result is 0 for every draw; the draw itself is a free value. -/
theorem test_rnd_masked (k : Nat) : (match exec (.rnd 3 0x00#8) { State.reset with draws := k } with
    | .next t => some (t.v[3], t.draws)
    | _ => none) = some (0x00#8, k + 1) := by
  simp [exec, execRnd, State.setV, State.nextDraw]

/-! ## Index and memory (T-I) -/

theorem test_ldI : (after 0xAFFF State.reset).map (·.ireg) = some 0x0FFF#16 := by decide
theorem test_addI_wraps : (after 0xF11E ((State.reset.setI 0xFFFF#16).setV 1 0x02#8)).map (·.ireg) = some 0x0001#16 := by
  decide
theorem test_addI_no_flag : (after 0xF11E (((State.reset.setI 0x0FFF#16).setV 1 0x01#8).setV 15 0x5A#8)).map
    (fun t => (t.ireg, t.getV 15)) = some (0x1000#16, 0x5A#8) := by decide
theorem test_ldF_unmasked : (after 0xF429 (State.reset.setV 4 0xFF#8)).map (·.ireg) = some 0x054B#16 := by decide
theorem test_bcd_last_legal : bytes (after 0xF533 ((State.reset.setI 0x0FFD#16).setV 5 0x7B#8)) 0xFFD 3 =
    some [0x01#8, 0x02#8, 0x03#8] := by decide
theorem test_bcd_out_of_range : errorOf 0xF533 ((State.reset.setI 0x2345#16).setV 5 0x7B#8) =
    some (4#3, some 0x2345, 0x0202#16) := by decide
theorem test_stRegs_inclusive : bytes (after 0xF255
    ((((State.reset.setI 0x0400#16).setV 0 0x11#8).setV 1 0x22#8).setV 2 0x33#8)) 0x400 4 =
    some [0x11#8, 0x22#8, 0x33#8, 0x00#8] := by decide
theorem test_stRegs_all_or_nothing : errorOf 0xFF55 (State.reset.setI 0x0FF1#16) = some (4#3, some 0x1000, 0x0202#16) := by
  decide
theorem test_ldRegs_font : regs (after 0xF465 ((State.reset.setI 0x0050#16).setV 5 0x99#8)) [0, 1, 2, 3, 4, 5] =
    some [0xF0#8, 0x90#8, 0x90#8, 0x90#8, 0xF0#8, 0x99#8] := by decide
theorem test_ldRegs_out_of_range : errorOf 0xF165 (State.reset.setI 0x0FFF#16) = some (4#3, some 0x1000, 0x0202#16) := by
  decide

/-! ## Display (T-D) -/

theorem test_cls : (after 0x00E0 ((State.reset.setFb (litCells [(0, 0), (63, 31)])).setV 15 0x01#8)).map
    (fun t => (t.fb, t.getV 15)) = some (Framebuffer.clear, 0x01#8) := by decide
theorem test_drw_wraps_both_edges : (after 0xD012
    ((((State.reset.setI 0x0300#16).setV 0 0xFF#8).setV 1 0xFF#8).writeBytes 0x300 [0xC0#8, 0xC0#8])).map
    (fun t => (t.fb, t.getV 15)) = some (litCells [(63, 31), (0, 31), (63, 0), (0, 0)], 0x00#8) := by decide
theorem test_drw_collision : (after 0xD011
    (((State.reset.setI 0x0300#16).writeBytes 0x300 [0xF0#8]).setFb (litCells [(3, 0), (4, 0)]))).map
    (fun t => (t.fb, t.getV 15)) = some (litCells [(0, 0), (1, 0), (2, 0), (4, 0)], 0x01#8) := by decide

/-! ## Keypad and timers (T-K) -/

theorem test_skp_pressed : pcOf (after 0xE59E ((State.reset.setV 5 0x0A#8).setKey 10 true)) = some 0x0204#16 := by decide
theorem test_skp_index_not_masked : errorOf 0xE59E ((State.reset.setV 5 0x10#8).setKey 0 true) =
    some (4#3, some 0x10, 0x0202#16) := by decide
theorem test_sknp_not_pressed : pcOf (after 0xE5A1 (State.reset.setV 5 0x0A#8)) = some 0x0204#16 := by decide
theorem test_sknp_pressed : pcOf (after 0xE5A1 ((State.reset.setV 5 0x0A#8).setKey 10 true)) = some 0x0202#16 := by decide
theorem test_ldVxK_waits : (after 0xF30A ((State.reset.setPc 0x0230#16).setV 3 0x77#8)).map (fun t => (t.getV 3, t.pc)) =
    some (0x77#8, 0x0230#16) := by decide
theorem test_ldVxK_lowest : (after 0xF30A (((State.reset.setPc 0x0230#16).setKey 7 true).setKey 2 true)).map
    (fun t => (t.getV 3, t.pc)) = some (0x02#8, 0x0232#16) := by decide
theorem test_ldVxDt : regs (after 0xF207 ((State.reset.setDt 0x3C#8).setSt 0x11#8)) [2] = some [0x3C#8] := by decide
theorem test_ldDtVx : (after 0xF215 (((State.reset.setV 2 0x3C#8).setDt 0x07#8).setSt 0x09#8)).map (fun t => (t.dt, t.st)) =
    some (0x3C#8, 0x09#8) := by decide
theorem test_ldStVx : (after 0xF218 (((State.reset.setV 2 0x05#8).setDt 0x07#8).setSt 0x09#8)).map (fun t => (t.dt, t.st)) =
    some (0x07#8, 0x05#8) := by decide

/-! ## The host's transactions (T-K.15, T-K.16, T-K.18, T-L.3, T-L.4) -/

theorem test_tick_floors_at_zero : ((tick (State.reset.setDt 0x01#8)).dt, (tick (tick (State.reset.setDt 0x01#8))).dt) =
    (0x00#8, 0x00#8) := by decide
theorem test_tick_counts : (tick (tick (tick ((State.reset.setDt 0xFF#8).setSt 0x02#8)))).dt = 0xFC#8 := by decide
theorem test_load_odd_length : (match load [0x60#8, 0x05#8, 0x12#8] State.reset with
    | .next t => some (t.readBytes 0x200 4, t.pc)
    | _ => none) = some ([0x60#8, 0x05#8, 0x12#8, 0x00#8], 0x0200#16) := by decide
theorem test_load_too_long : (match load (List.replicate 3585 0xAA#8) State.reset with
    | .fault f => some (f.code, f.info)
    | _ => none) = some (1#3, some 3585) := by
  simp only [load, State.reset, State.resetWith, List.length_replicate]
  decide
theorem test_schedule_moves_the_tick : (match step { State.reset.setDt 0x05#8 with schedule := [.tick, .step] } with
    | .next t => some (t.dt, t.pc, t.schedule)
    | _ => none) = some (0x04#8, 0x0200#16, [.step]) := by decide
theorem test_second_load_refused : (match step { State.reset with launched := true, schedule := [.load []] } with
    | .refused r => some r
    | _ => none) = some .loadAfterLaunch := by decide

/-! ## Witnesses: the hypotheses of the statements are met, clause by clause, at the boundaries -/

/-- Reset with the word of `op` at PC, PC being `a`. -/
def placed (a : Word) (op : Nat) : State := (State.reset.setPc a).withFetchWord 16 op

theorem witness_DecodeOfEncode : WellFormed (.drw 15 15 15#4) = true ∧ WellFormed (.undef 0xFFFF#16) = true := by decide
theorem witness_StepIsTheScheduledTransaction : State.reset.schedule = [] ∧
    { State.reset with schedule := [.tick, .fbRead] }.schedule = .tick :: [.fbRead] := by decide
theorem witness_StepRunsDecodedInstruction : (placed 0x0FFE#16 0x6A2F).nextTransaction = .step ∧
    (placed 0x0FFE#16 0x6A2F).pc.toNat ≤ 0xFFE ∧
    decodeBytes [(placed 0x0FFE#16 0x6A2F).readByte 0xFFE, (placed 0x0FFE#16 0x6A2F).readByte 0xFFF] =
      .ok (.ldImm 10 0x2F#8, []) := by decide
theorem witness_FetchBoundRepeats : 0xFFE < (State.reset.setPc 0x0FFF#16).pc.toNat ∧
    (State.reset.setPc 0x0FFF#16).nextTransaction = .step ∧ Transaction.tick ≠ .reset ∧
    resume (transact .tick (State.reset.setPc 0x0FFF#16)) = some (tick (State.reset.setPc 0x0FFF#16)) ∧
    resume (transact .step (State.reset.setPc 0x0FFF#16)) = some (State.reset.setPc 0x0FFF#16) := by decide
theorem witness_UnrecognisedWordIsNoop : (placed 0x0FFE#16 0x801F).nextTransaction = .step ∧
    (placed 0x0FFE#16 0x801F).pc.toNat ≤ 0xFFE ∧
    ∀ r ∈ opcodeTable, r.matchesWord (placed 0x0FFE#16 0x801F).fetchWord = false := by decide
theorem witness_CallPushesOrOverflows : { State.reset with sp := 15 }.sp.val < 16 ∧ { State.reset with sp := 16 }.sp.val = 16 := by
  decide
theorem witness_ReturnPopsOrUnderflows : 0 < { State.reset with sp := 1 }.sp.val ∧ State.reset.sp.val = 0 := by decide

/-- The path of `witness_CallThenReturn`: a CALL of 0x300, then the zeros there. -/
def callPath (k : Nat) : State :=
  { State.reset with
    pc := BitVec.ofNat 16 (0x300 + 2 * k), sp := 1, stack := State.reset.stack.set 0 0x0200#16, launched := decide (0 < k) }

theorem witness_CallThenReturn : exec (.call 0x300#12) State.reset = .next (callPath 0) ∧
    (∀ k, k < 1 → step (callPath k) = .next (callPath (k + 1)) ∧ (callPath k).nextTransaction ≠ .reset ∧
      (callPath 0).sp ≤ (callPath (k + 1)).sp) ∧ (callPath 1).sp = (callPath 0).sp := by
  refine ⟨rfl, fun k hk => ?_, by decide⟩
  obtain rfl : k = 0 := by omega
  exact ⟨rfl, by decide, by decide⟩
theorem witness_LiveSlotsAreKept : (callPath 0).nextTransaction ≠ .reset ∧ step (callPath 0) = .next (callPath 1) ∧
    (0 : Fin 16).val < (callPath 0).sp.val ∧ (0 : Fin 16).val < (callPath 1).sp.val := ⟨by decide, rfl, by decide, by decide⟩
/-- For AddSetsCarry, SubtractSetsNoBorrow, ReverseSubtractSetsNoBorrow and ShiftsKeepTheBitOut. -/
theorem witness_destination_is_not_the_flag : (14 : Reg) ≠ vf ∧ (0 : Reg) ≠ vf := by decide
theorem witness_BcdStoresDigits : (State.reset.setI 0x0FFD#16).ireg.toNat + 2 ≤ 0xFFF ∧
    0xFFF < (State.reset.setI 0x0FFE#16).ireg.toNat + 2 ∧ (0 < (State.reset.setI 0x0FFD#16).ireg.toNat ∨
    (State.reset.setI 0x0FFD#16).ireg.toNat + 2 < 0) := by decide
/-- For DumpStoresRegisters and LoadReadsRegisters, with the registers up to Vx and above it. -/
theorem witness_transfer_range : (State.reset.setI 0x0FF0#16).ireg.toNat + (15 : Reg).val ≤ 0xFFF ∧
    0xFFF < (State.reset.setI 0x0FF1#16).ireg.toNat + (15 : Reg).val ∧
    (State.reset.setI 0x0FFF#16).ireg.toNat + (0 : Reg).val ≤ 0xFFF ∧ (0 : Reg) ≤ 0 ∧ (0 : Reg) < 1 := by decide
theorem witness_DumpThenLoadRestores : ∃ t u : State, exec (.stRegs 15) (State.reset.setI 0x0FF0#16) = .next t ∧
    u.ireg = (State.reset.setI 0x0FF0#16).ireg ∧ (∀ a, u.readByte a = t.readByte a) ∧ u.getV 0 ≠ t.getV 0 :=
  ⟨_, State.setV ((State.reset.setI 0x0FF0#16).writeBytes 0xFF0 ((State.reset.setI 0x0FF0#16).regsTo 15)) 0 0x77#8, rfl, rfl,
    fun _ => rfl, by decide⟩
theorem witness_FetchSeesTheStore : ∃ t, exec (.stRegs 1) (State.reset.setI 0x0200#16) = .next t ∧
    t.nextTransaction = .step ∧ (0 : Reg).val + 1 = (1 : Reg).val ∧ (1 : Reg) ≤ 1 ∧
    t.pc.toNat = (State.reset.setI 0x0200#16).ireg.toNat + (0 : Reg).val := ⟨_, rfl, by decide⟩
theorem witness_DrawTogglesTheSprite : (0#4).toNat = 0 ∧ (State.reset.setI 0x0FFF#16).ireg.toNat + (1#4).toNat - 1 ≤ 0xFFF ∧
    0 < (15#4).toNat ∧ 0xFFF < (State.reset.setI 0x0FF2#16).ireg.toNat + (15#4).toNat - 1 ∧ 0 < (1#4).toNat ∧
    0xFFF < (State.reset.setI 0x1000#16).ireg.toNat + (1#4).toNat - 1 := by decide
theorem witness_DrawTwiceRestores : ∃ t u : State, exec (.drw 0 1 1#4) (State.reset.setI 0x0050#16) = .next t ∧ u.fb = t.fb ∧
    u.getV 0 = (State.reset.setI 0x0050#16).getV 0 ∧ u.getV 1 = (State.reset.setI 0x0050#16).getV 1 ∧
    u.ireg = (State.reset.setI 0x0050#16).ireg ∧ (∀ k, k < (1#4).toNat →
      u.readByte ((State.reset.setI 0x0050#16).ireg.toNat + k) =
        (State.reset.setI 0x0050#16).readByte ((State.reset.setI 0x0050#16).ireg.toNat + k)) ∧
    t.fb ≠ (State.reset.setI 0x0050#16).fb := ⟨_, _, rfl, rfl, rfl, rfl, rfl, fun _ _ => rfl, by decide⟩
theorem witness_SkipsOnKey : ((State.reset.setV 5 0x0F#8).getV 5).toNat = (15 : Fin 16).val ∧
    15 < ((State.reset.setV 5 0x10#8).getV 5).toNat := by decide
theorem witness_WaitsForTheLowestKey : (State.reset.setKey 15 true).key[15] = true ∧
    (∀ j : Fin 16, j < 15 → (State.reset.setKey 15 true).key[j] = false) ∧ (State.reset.setKey 0 true).key[0] = true ∧
    (∀ j : Fin 16, j < 0 → (State.reset.setKey 0 true).key[j] = false) ∧ ∀ k : Fin 16, State.reset.key[k] = false := by decide
theorem witness_KeyWaitRepeats : (placed 0x0FFE#16 0xF30A).schedule = [] ∧ (placed 0x0FFE#16 0xF30A).pc.toNat ≤ 0xFFE ∧
    decode (placed 0x0FFE#16 0xF30A).fetchWord = .ldVxK 3 ∧ ∀ k : Fin 16, (placed 0x0FFE#16 0xF30A).key[k] = false := by decide
theorem witness_DelayTimerCountsDown : exec (.ldDtVx 2) (State.reset.setV 2 0x03#8) =
    .next ((State.reset.setV 2 0x03#8).setDt 0x03#8) := rfl
theorem witness_ResetKeepsTheModelsOwn : State.reset.font = Config.defaultFont ∧ State.reset.draws = 0 ∧
    State.reset.schedule = [] := ⟨rfl, rfl, rfl⟩
theorem witness_LoadCopiesAllOrNothing : State.reset.launched = false ∧ 0x200 + (List.replicate 3584 0xAA#8).length ≤ 4096 ∧
    4096 < 0x200 + (List.replicate 3585 0xAA#8).length := by
  simp only [List.length_replicate]
  decide
theorem witness_SecondLoadIsRefused : { State.reset with launched := true }.launched = true ∧
    (∃ t, transact (.load [0x60#8]) State.reset = .next t) ∧ (∃ t, transact .step State.reset = .next t) ∧
    Transaction.tick ≠ .reset ∧ ∃ t, transact .tick { State.reset with launched := true } = .next t :=
  ⟨rfl, ⟨_, rfl⟩, ⟨_, rfl⟩, by decide, ⟨_, rfl⟩⟩
/-- Also for ErrorsLeaveTheRestUnchanged: a completed step at 0xFFE, a fetch error at 0xFFF, a handler's error. -/
theorem witness_PcAfterEveryStep : (∃ t, resume (step (State.reset.setPc 0x0FFE#16)) = some t) ∧
    (State.reset.setPc 0x0FFE#16).nextTransaction = .step ∧ (State.reset.setPc 0x0FFE#16).pc.toNat ≤ 0xFFE ∧
    (∃ f, step (State.reset.setPc 0x0FFF#16) = .fault f) ∧ 0xFFE < (State.reset.setPc 0x0FFF#16).pc.toNat ∧
    (∃ f, step (placed 0x0200#16 0x00EE) = .fault f) ∧ (placed 0x0200#16 0x00EE).nextTransaction = .step ∧
    (placed 0x0200#16 0x00EE).pc.toNat ≤ 0xFFE := by
  refine ⟨⟨_, rfl⟩, by decide, by decide, ⟨_, rfl⟩, by decide, ⟨_, rfl⟩, by decide, by decide⟩
/-- For OnlyWrittenRegistersChange, PiecesChangeOnlyByTheirWriters, OnlyFlagInstructionsTouchVf and
UnreadRegistersDoNotMatter (a register written but not read; an error). -/
theorem witness_exec_answers : (∃ t, exec (.addReg 0 1) State.reset = .next t) ∧ writesFlag (.addReg 0 1) = true ∧
    (∃ t, exec (.ldImm 0 0x01#8) State.reset = .next t) ∧ writesFlag (.ldImm 0 0x01#8) = false ∧
    vf ∉ writesOf (.ldImm 0 0x01#8) ∧ (0 : Reg) ∉ readsOf (.ldImm 0 0x01#8) ∧ (2 : Reg) ∉ readsOf (.addReg 0 1) ∧
    (∃ f, exec .ret State.reset = .fault f) ∧ (0 : Reg) ∉ readsOf .ret :=
  ⟨⟨_, rfl⟩, rfl, ⟨_, rfl⟩, rfl, by decide, by decide, by decide, ⟨_, rfl⟩, by decide⟩
theorem witness_ErrorsExactlyAsListed : State.reset.launched = false ∧ expectedError .ret State.reset = some (.stackUnderflow State.reset) ∧
    exec .ret State.reset = .fault (.stackUnderflow State.reset) := ⟨rfl, rfl, rfl⟩
theorem witness_OnlyALateLoadIsRefused :
    step { State.reset with launched := true, schedule := [.load []] } = .refused .loadAfterLaunch := rfl
theorem witness_FinishedStaysFinished : Finished (placed 0x0FFE#16 0x1FFE) ∧ (placed 0x0FFE#16 0x1FFE).nextTransaction = .step ∧
    Finished (placed 0x0000#16 0x1000) := by
  unfold Finished; decide
/-- The invariant at reset, and in a state with a full stack and a byte stored. -/
theorem witness_Inv : Inv State.reset ∧
    Inv { State.reset.writeByte 0xFFF 0x01#8 with pc := 0x10FE#16, sp := 16, stack := Vector.replicate 16 0x1000#16 } := by
  unfold Machine.Inv PcReachable StackValuesLegal; decide
theorem witness_EveryStepKeepsTheInvariant : ∃ t, step State.reset = .next t := ⟨_, rfl⟩
theorem witness_ErrorsKeepTheInvariant : ∃ f, step
    { State.reset.writeByte 0xFFF 0x01#8 with pc := 0x10FE#16, sp := 16, stack := Vector.replicate 16 0x1000#16 } = .fault f :=
  ⟨_, rfl⟩

end Sys2Proof.Tests
end

/-! ## Proofs: what the schedule makes of a step (R8, log 3) -/

namespace Sys2Proof.Machine

variable {s : State} {tr : Transaction} {rest : List Transaction}

theorem nextTransaction_of_schedule_nil (h : s.schedule = []) : s.nextTransaction = .step := by
  simp [State.nextTransaction, h]

theorem nextTransaction_of_schedule_cons (h : s.schedule = tr :: rest) : s.nextTransaction = tr := by
  simp [State.nextTransaction, h]

theorem popSchedule_of_schedule_nil (h : s.schedule = []) : s.popSchedule = s := by
  rw [State.popSchedule, h, List.tail_nil, ← h]

theorem popSchedule_of_schedule_cons (h : s.schedule = tr :: rest) :
    s.popSchedule = { s with schedule := rest } := by
  simp [State.popSchedule, h]

theorem step_of_schedule_nil (h : s.schedule = []) : step s = transact .step s := by
  rw [step, nextTransaction_of_schedule_nil h, popSchedule_of_schedule_nil h]

theorem step_of_schedule_cons (h : s.schedule = tr :: rest) :
    step s = transact tr { s with schedule := rest } := by
  rw [step, nextTransaction_of_schedule_cons h, popSchedule_of_schedule_cons h]

/-- Settles O5, case by case of the schedule. -/
theorem stepIsTheScheduledTransaction : Obligations.StepIsTheScheduledTransaction :=
  fun _ => ⟨step_of_schedule_nil, fun _ _ => step_of_schedule_cons⟩

end Sys2Proof.Machine

/-! ## Proofs: the frame relations compose (R49, R130) -/

namespace Sys2Proof.Machine

variable {ps qs : List Piece} {s t u : State}

theorem SamePiece.refl (s : State) (p : Piece) : SamePiece s s p := by
  cases p <;> simp [SamePiece]

theorem SamePiece.trans {p : Piece} (h : SamePiece s t p) (h' : SamePiece t u p) : SamePiece s u p := by
  cases p
  case regs | mem => exact fun a => (h' a).trans (h a)
  all_goals exact Eq.trans h' h

theorem SameExcept.refl (ps : List Piece) (s : State) : SameExcept ps s s :=
  fun p _ => SamePiece.refl s p

theorem SameExcept.mono (h : SameExcept ps s t) (hsub : ps ⊆ qs) : SameExcept qs s t :=
  fun p hp => h p fun hm => hp (hsub hm)

theorem SameExcept.trans (h : SameExcept ps s t) (h' : SameExcept ps t u) : SameExcept ps s u :=
  fun p hp => (h p hp).trans (h' p hp)

/-! ### One frame per state operation -/

theorem sameExcept_setV (s : State) (x : Reg) (b : Byte) : SameExcept [.regs] s (s.setV x b) := by
  intro p hp
  cases p <;> simp_all [SamePiece]

theorem sameExcept_loadRegs (s : State) (x : Reg) (a : Nat) : SameExcept [.regs] s (s.loadRegs x a) := by
  intro p hp
  cases p <;> simp_all [SamePiece]

theorem sameExcept_setPc (s : State) (a : Word) : SameExcept [.pc] s (s.setPc a) := by
  intro p hp
  cases p <;> simp_all [SamePiece]

theorem sameExcept_setI (s : State) (a : Word) : SameExcept [.index] s (s.setI a) := by
  intro p hp
  cases p <;> simp_all [SamePiece]

theorem sameExcept_setDt (s : State) (b : Byte) : SameExcept [.dt] s (s.setDt b) := by
  intro p hp
  cases p <;> simp_all [SamePiece]

theorem sameExcept_setSt (s : State) (b : Byte) : SameExcept [.st] s (s.setSt b) := by
  intro p hp
  cases p <;> simp_all [SamePiece]

theorem sameExcept_setFb (s : State) (f : Framebuffer) : SameExcept [.fb] s (s.setFb f) := by
  intro p hp
  cases p <;> simp_all [SamePiece]

theorem sameExcept_nextDraw (s : State) : SameExcept [.draws] s s.nextDraw := by
  intro p hp
  cases p <;> simp_all [SamePiece]

theorem sameExcept_writeBytes (s : State) (a : Nat) (l : List Byte) : SameExcept [.mem] s (s.writeBytes a l) := by
  intro p hp
  cases p <;> simp_all [SamePiece]

theorem sameExcept_push (s : State) (a : Word) (h : s.sp.val < 16) : SameExcept [.sp, .stack] s (s.push a h) := by
  intro p hp
  cases p <;> simp_all [SamePiece]

theorem sameExcept_popToPc (s : State) (h : 0 < s.sp.val) : SameExcept [.pc, .sp] s (s.popToPc h) := by
  intro p hp
  cases p <;> simp_all [SamePiece]

theorem regsExcept_setV (s : State) (x : Reg) (b : Byte) : RegsExcept [x] s (s.setV x b) := by
  intro r hr
  simp_all

end Sys2Proof.Machine

/-! ## Proofs: everything a handler can do, said once (R83 to R89, R150)

`effect` is the state a completing handler leaves; `exec_eq` ties it, with the model's own table `expectedError`, to
`exec`. Every later statement about instructions goes through `exec_next_iff` and `exec_fault_iff`. -/

namespace Sys2Proof.Machine

variable {i : Instr} {s t : State} {f : Fault}

/-- The framebuffer and the collision that Dxyn draws (R132). -/
def State.drawing (s : State) (x y : Reg) (n : Nibble) : Drawing :=
  drawRows (s.getV x) (s.getV y) 0 (s.readBytes s.base n.toNat) (s.fb, false)

/-- The result into Vx, then the flag into VF (R88). -/
def State.setResultFlag (s : State) (x : Reg) (r : Byte) (c : Bool) : State := (s.setV x r).setV vf (flagByte c)

/-- PC past the next instruction when the condition holds (R90). -/
def State.skip (s : State) (c : Bool) : State := s.setPc (if c then s.pc + 2#16 else s.pc)

/-- Skip on a condition of the key that `b` names; no change for an index above 15 (R140). -/
def State.skipOnKey (s : State) (b : Byte) (c : Bool → Bool) : State :=
  if h : b.toNat < 16 then s.skip (c s.key[b.toNat]) else s

/-- The smallest pressed key into Vx, or PC back by 2 (R142). -/
def State.awaitKey (s : State) (x : Reg) : State :=
  match lowestKey s.key with
  | some k => s.setV x (BitVec.ofNat 8 k.val)
  | none => s.setPc (s.pc - 2#16)

/-- The state the handler of an instruction leaves when it raises no error. -/
def effect (i : Instr) (s : State) : State :=
  match i with
  | .cls => s.setFb Framebuffer.clear
  | .ret => if h : 0 < s.sp.val then s.popToPc h else s
  | .jp nnn => s.setPc (addrOfImm nnn)
  | .call nnn => if h : s.sp.val < 16 then (s.push s.pc h).setPc (addrOfImm nnn) else s
  | .seImm x nn => s.skip (s.getV x == nn)
  | .sneImm x nn => s.skip (s.getV x != nn)
  | .seReg x y => s.skip (s.getV x == s.getV y)
  | .ldImm x nn => s.setV x nn
  | .addImm x nn => s.setV x (s.getV x + nn)
  | .ldReg x y => s.setV x (s.getV y)
  | .orReg x y => s.setV x (s.getV x ||| s.getV y)
  | .andReg x y => s.setV x (s.getV x &&& s.getV y)
  | .xorReg x y => s.setV x (s.getV x ^^^ s.getV y)
  | .addReg x y => s.setResultFlag x (s.getV x + s.getV y) (carry (s.getV x) (s.getV y))
  | .sub x y => s.setResultFlag x (s.getV x - s.getV y) (noBorrow (s.getV x) (s.getV y))
  | .shr x _ => s.setResultFlag x (s.getV x >>> 1) (bitOutRight (s.getV x))
  | .subn x y => s.setResultFlag x (s.getV y - s.getV x) (noBorrow (s.getV y) (s.getV x))
  | .shl x _ => s.setResultFlag x (s.getV x <<< 1) (bitOutLeft (s.getV x))
  | .sneReg x y => s.skip (s.getV x != s.getV y)
  | .ldI nnn => s.setI (addrOfImm nnn)
  | .jpV0 nnn => s.setPc (addrOfImm nnn + wordOfByte (s.getV 0))
  | .rnd x nn => (s.setV x (Config.rnd s.draws &&& nn)).nextDraw
  | .drw x y n => (s.setFb (s.drawing x y n).1).setV vf (flagByte (s.drawing x y n).2)
  | .skp x => s.skipOnKey (s.getV x) id
  | .sknp x => s.skipOnKey (s.getV x) not
  | .ldVxDt x => s.setV x s.dt
  | .ldVxK x => s.awaitKey x
  | .ldDtVx x => s.setDt (s.getV x)
  | .ldStVx x => s.setSt (s.getV x)
  | .addI x => s.setI (s.ireg + wordOfByte (s.getV x))
  | .ldF x => s.setI (glyphAddr (s.getV x))
  | .bcd x => s.writeBytes s.base (decimalDigits (s.getV x))
  | .stRegs x => s.writeBytes s.base (s.regsTo x)
  | .ldRegs x => s.loadRegs x s.base
  | .undef _ => s

/-- A checked transfer raises the row of R150 for its range, or completes. -/
theorem guardRange_base_eq (count : Nat) (s t : State) :
    guardRange s.base count s (.next t) = (rangeError count s).elim (.next t) .fault := by
  have hrow : rangeError count s = if 0 < count ∧ 0xFFF < s.base + count - 1 then
      some (.boundsError (max s.base 0x1000) s) else none := rfl
  rw [hrow, guardRange]
  split <;> rfl

/-- A skip on a key raises the row of R150 for its index, or completes. -/
theorem withKey_skipIf_eq (b : Byte) (c : Bool → Bool) (s : State) :
    withKey b s (fun pressed => skipIf (c pressed) s) =
      (if 15 < b.toNat then some (Fault.boundsError b.toNat s) else none).elim (.next (s.skipOnKey b c)) .fault := by
  by_cases h : b.toNat < 16
  · rw [withKey_ok h, if_neg (by omega), State.skipOnKey, dif_pos h, skipIf_eq]
    rfl
  · rw [withKey_out (by omega), if_pos (by omega)]
    rfl

theorem execRet_eq (s : State) :
    execRet s = (expectedError .ret s).elim (.next (effect .ret s)) .fault := by
  by_cases h : s.sp.val = 0
  · simp [execRet, expectedError, h, raise]
  · simp [execRet, expectedError, effect, h, Nat.pos_of_ne_zero h]

theorem execCall_eq (nnn : Addr12) (s : State) :
    execCall nnn s = (expectedError (.call nnn) s).elim (.next (effect (.call nnn) s)) .fault := by
  by_cases h : s.sp.val < 16
  · simp [execCall, expectedError, effect, h, Nat.ne_of_lt h]
  · simp [execCall, expectedError, raise, show s.sp.val = 16 by omega]

theorem execLdVxK_eq (x : Reg) (s : State) : execLdVxK x s = .next (s.awaitKey x) := by
  unfold execLdVxK State.awaitKey
  cases lowestKey s.key <;> rfl

/-- Every handler raises the error R150 lists for it, or leaves its effect. -/
theorem exec_eq (i : Instr) (s : State) :
    exec i s = (expectedError i s).elim (.next (effect i s)) .fault := by
  cases i with
  | ret => exact execRet_eq s
  | call nnn => exact execCall_eq nnn s
  | seImm | sneImm | seReg | sneReg => exact skipIf_eq _ s
  | drw x y n => exact guardRange_base_eq n.toNat s _
  | skp x => exact withKey_skipIf_eq (s.getV x) id s
  | sknp x => exact withKey_skipIf_eq (s.getV x) not s
  | ldVxK x => exact execLdVxK_eq x s
  | bcd => exact guardRange_base_eq 3 s _
  | stRegs x | ldRegs x => exact guardRange_base_eq (x.val + 1) s _
  | _ => rfl

/-- A handler completes exactly when R150 lists no error for it, and then leaves its effect. -/
theorem exec_next_iff : exec i s = .next t ↔ expectedError i s = none ∧ effect i s = t := by
  rw [exec_eq]
  cases expectedError i s <;> simp

/-- A handler raises exactly the error R150 lists for it. -/
theorem exec_fault_iff : exec i s = .fault f ↔ expectedError i s = some f := by
  rw [exec_eq]
  cases expectedError i s <;> simp

theorem rangeError_after {count : Nat} (h : rangeError count s = some f) : f.after = s := by
  unfold rangeError at h
  split at h <;> cases h
  rfl

/-- A handler's error leaves the state the handler started from (R89). -/
theorem expectedError_after (h : expectedError i s = some f) : f.after = s := by
  cases i with
  | drw | bcd | stRegs | ldRegs => exact rangeError_after h
  | ret | call | skp | sknp =>
    simp only [expectedError] at h
    split at h <;> cases h
    rfl
  | _ => cases h

end Sys2Proof.Machine

/-! ## Proofs: the frame of every instruction (R12, R17 to R26, R49, R130) -/

namespace Sys2Proof.Machine

theorem sameExcept_setResultFlag (s : State) (x : Reg) (r : Byte) (c : Bool) :
    SameExcept [.regs] s (s.setResultFlag x r c) :=
  (sameExcept_setV s x r).trans (sameExcept_setV _ vf _)

theorem sameExcept_skipOnKey (s : State) (b : Byte) (c : Bool → Bool) : SameExcept [.pc] s (s.skipOnKey b c) := by
  unfold State.skipOnKey
  split
  · exact sameExcept_setPc s _
  · exact SameExcept.refl _ s

theorem sameExcept_awaitKey (s : State) (x : Reg) : SameExcept [.regs, .pc] s (s.awaitKey x) := by
  unfold State.awaitKey
  split
  · exact (sameExcept_setV s x _).mono (by simp)
  · exact (sameExcept_setPc s _).mono (by simp)

/-- The effect of an instruction stays within the pieces its row lists. -/
theorem effect_sameExcept (i : Instr) (s : State) : SameExcept (touched i) s (effect i s) := by
  cases i with
  | cls => exact sameExcept_setFb s _
  | ret =>
    simp only [effect]
    split
    · exact sameExcept_popToPc s _
    · exact SameExcept.refl _ s
  | call nnn =>
    simp only [effect]
    split
    · exact ((sameExcept_push s s.pc _).mono (by simp [touched])).trans
        ((sameExcept_setPc _ _).mono (by simp [touched]))
    · exact SameExcept.refl _ s
  | jp | jpV0 | seImm | sneImm | seReg | sneReg => exact sameExcept_setPc s _
  | skp | sknp => exact sameExcept_skipOnKey s _ _
  | ldImm | addImm | ldReg | orReg | andReg | xorReg | ldVxDt => exact sameExcept_setV s _ _
  | addReg | sub | shr | subn | shl => exact sameExcept_setResultFlag s _ _ _
  | ldI | addI | ldF => exact sameExcept_setI s _
  | rnd x nn =>
    exact ((sameExcept_setV s x _).mono (by simp [touched])).trans
      ((sameExcept_nextDraw _).mono (by simp [touched]))
  | drw x y n =>
    exact ((sameExcept_setFb s _).mono (by simp [touched])).trans
      ((sameExcept_setV _ vf _).mono (by simp [touched]))
  | ldVxK x => exact sameExcept_awaitKey s x
  | ldDtVx => exact sameExcept_setDt s _
  | ldStVx => exact sameExcept_setSt s _
  | bcd | stRegs => exact sameExcept_writeBytes s _ _
  | ldRegs x => exact sameExcept_loadRegs s x _
  | undef => exact SameExcept.refl _ s

/-- Settles O51: a completing instruction leaves its effect, which stays within its row. -/
theorem piecesChangeOnlyByTheirWriters : Obligations.PiecesChangeOnlyByTheirWriters := by
  intro i s t h
  obtain ⟨-, rfl⟩ := exec_next_iff.mp h
  exact effect_sameExcept i s

/-! ### Registers (R11, R12) -/

theorem regsExcept_setResultFlag (s : State) (x : Reg) (r : Byte) (c : Bool) :
    RegsExcept [x, vf] s (s.setResultFlag x r c) := by
  intro q hq
  simp_all [State.setResultFlag]

theorem regsExcept_awaitKey (s : State) (x : Reg) : RegsExcept [x] s (s.awaitKey x) := by
  unfold State.awaitKey
  split
  · exact regsExcept_setV s x _
  · exact fun _ _ => rfl

@[simp] theorem mem_regsUpTo {x r : Reg} : r ∈ regsUpTo x ↔ r ≤ x := by
  simp [regsUpTo]

theorem regsExcept_loadRegs (s : State) (x : Reg) (a : Nat) : RegsExcept (regsUpTo x) s (s.loadRegs x a) := by
  intro r hr
  rw [mem_regsUpTo, Fin.le_def] at hr
  rw [State.loadRegs_getV, if_neg hr]

/-- The effect of an instruction stays within the registers its row lists; a row without registers leaves them all. -/
theorem effect_regsExcept (i : Instr) (s : State) : RegsExcept (writesOf i) s (effect i s) := by
  cases i with
  | ldImm | addImm | ldReg | orReg | andReg | xorReg | rnd | ldVxDt => exact regsExcept_setV s _ _
  | addReg | sub | shr | subn | shl => exact regsExcept_setResultFlag s _ _ _
  | drw => exact regsExcept_setV (s.setFb _) vf _
  | ldVxK x => exact regsExcept_awaitKey s x
  | ldRegs x => exact regsExcept_loadRegs s x _
  | _ => exact fun r _ => effect_sameExcept _ s .regs (by simp [touched]) r

/-- Settles O48: a completing instruction leaves its effect, which stays within its row. -/
theorem onlyWrittenRegistersChange : Obligations.OnlyWrittenRegistersChange := by
  intro i s t h
  obtain ⟨-, rfl⟩ := exec_next_iff.mp h
  exact effect_regsExcept i s

theorem setV_getV_same (s : State) (x : Reg) (b : Byte) : (s.setV x b).getV x = b := by
  simp

theorem flagByte_eq_zero_or_one (c : Bool) : flagByte c = 0x00#8 ∨ flagByte c = 0x01#8 := by
  cases c
  · exact .inl rfl
  · exact .inr rfl

/-- A flag instruction writes VF last, so VF ends as some flag (R88). -/
theorem effect_getV_vf (s : State) {i : Instr} (h : writesFlag i = true) :
    ∃ c, (effect i s).getV vf = flagByte c := by
  cases i with
  | addReg | sub | shr | subn | shl => exact ⟨_, setV_getV_same _ vf _⟩
  | drw => exact ⟨_, setV_getV_same _ vf _⟩
  | _ => cases h

/-- Settles O50: the flag instructions write a flag last, and for the others O48 says it of VF. -/
theorem onlyFlagInstructionsTouchVf : Obligations.OnlyFlagInstructionsTouchVf := by
  intro i s t h
  refine ⟨fun hflag => ?_, fun _ hvf => onlyWrittenRegistersChange i s t h vf hvf⟩
  obtain ⟨-, rfl⟩ := exec_next_iff.mp h
  obtain ⟨c, hc⟩ := effect_getV_vf s hflag
  exact hc ▸ flagByte_eq_zero_or_one c

end Sys2Proof.Machine

/-! ## Proofs: PC after a STEP (R14) -/

namespace Sys2Proof.Machine

variable {s t : State} {i : Instr} {f : Fault}

theorem fetched_pc_toNat (h : s.pc.toNat ≤ 0xFFE) (w : Word) : (s.fetched w).pc.toNat = s.pc.toNat + 2 := by
  rw [State.fetched_pc, BitVec.toNat_add]
  simp
  omega

theorem skip_fetched_pc_toNat (h : s.pc.toNat ≤ 0xFFE) (w : Word) (c : Bool) :
    ((s.fetched w).skip c).pc.toNat = if c then s.pc.toNat + 4 else s.pc.toNat + 2 := by
  have hpc := fetched_pc_toNat h w
  cases c
  · simpa [State.skip] using hpc
  · simp only [State.skip, if_true, State.setPc_pc, BitVec.toNat_add, hpc, BitVec.toNat_ofNat]
    omega

theorem skipOnKey_fetched_pc_toNat (h : s.pc.toNat ≤ 0xFFE) (w : Word) (c : Bool → Bool) {b : Byte}
    (hb : b.toNat < 16) : ((s.fetched w).skipOnKey b c).pc.toNat =
      if c s.key[b.toNat] then s.pc.toNat + 4 else s.pc.toNat + 2 := by
  rw [State.skipOnKey, dif_pos hb, skip_fetched_pc_toNat h]
  rfl

theorem awaitKey_fetched_pc_toNat (h : s.pc.toNat ≤ 0xFFE) (w : Word) (x : Reg) :
    ((s.fetched w).awaitKey x).pc.toNat = if ∃ k : Fin 16, s.key[k] = true then s.pc.toNat + 2 else s.pc.toNat := by
  unfold State.awaitKey
  split
  · next k hk =>
    rw [if_pos ⟨k, (lowestKey_some hk).1⟩]
    exact fetched_pc_toNat h w
  · next hk =>
    rw [if_neg (by simpa using lowestKey_none.mp hk)]
    simp

/-- What an instruction fetched below the bound does to PC is its row of R14. -/
theorem effect_fetched_pc_toNat (i : Instr) (h : s.pc.toNat ≤ 0xFFE) (w : Word) :
    (effect i (s.fetched w)).pc.toNat = pcAfter i s := by
  have hpc := fetched_pc_toNat h w
  cases i with
  | jp nnn => exact addrOfImm_toNat nnn
  | jpV0 nnn =>
    have h12 := nnn.isLt
    have h8 := (s.getV 0).isLt
    simp only [effect, pcAfter, State.setPc_pc, State.fetched_getV, BitVec.toNat_add, addrOfImm_toNat,
      wordOfByte_toNat]
    omega
  | call nnn =>
    by_cases hsp : s.sp.val < 16
    · simp [effect, pcAfter, hsp, Nat.ne_of_lt hsp]
    · have hkeep : effect (.call nnn) (s.fetched w) = s.fetched w := dif_neg hsp
      rw [hkeep, hpc]
      exact (if_pos (by omega)).symm
  | ret =>
    by_cases hsp : 0 < s.sp.val
    · simp [effect, pcAfter, hsp]
    · have hkeep : effect .ret (s.fetched w) = s.fetched w := dif_neg hsp
      rw [hkeep, hpc]
      exact (dif_neg hsp : pcAfter .ret s = s.pc.toNat + 2).symm
  | seImm | sneImm | seReg | sneReg => simp [effect, pcAfter, skip_fetched_pc_toNat h]
  | skp x | sknp x =>
    simp only [effect, pcAfter, State.fetched_getV]
    by_cases hx : (s.getV x).toNat < 16
    · rw [skipOnKey_fetched_pc_toNat h w _ hx, dif_pos hx]
      cases s.key[(s.getV x).toNat] <;> rfl
    · rw [dif_neg hx, State.skipOnKey, dif_neg hx, hpc]
  | ldVxK x => exact awaitKey_fetched_pc_toNat h w x
  | _ => exact hpc

/-- Under an error of R150 the effect keeps PC: the row of R14 is then `p + 2`. -/
theorem effect_pc_of_error (h : expectedError i s = some f) : (effect i s).pc = s.pc := by
  cases i with
  | ret =>
    have hsp : s.sp.val = 0 := by
      by_contra hne
      simp [expectedError, hne] at h
    simp [effect, hsp]
  | call nnn =>
    have hsp : s.sp.val = 16 := by
      by_contra hne
      simp [expectedError, hne] at h
    simp [effect, hsp]
  | skp x | sknp x =>
    have hx : ¬ (s.getV x).toNat < 16 := by
      intro hlt
      simp [expectedError, show ¬ 15 < (s.getV x).toNat by omega] at h
    simp [effect, State.skipOnKey, hx]
  | drw | bcd | stRegs | ldRegs => rfl
  | _ => cases h

/-- Completed or not, a handler leaves PC where its effect has it. -/
theorem resume_exec_pc (h : resume (exec i s) = some t) : t.pc = (effect i s).pc := by
  rw [exec_eq] at h
  cases he : expectedError i s with
  | none =>
    rw [he] at h
    exact congrArg State.pc (Option.some.inj h).symm
  | some f =>
    rw [he] at h
    rw [← Option.some.inj h, effect_pc_of_error he]
    exact congrArg State.pc (expectedError_after he)

theorem stepInstr_of_pc_le (h : s.pc.toNat ≤ 0xFFE) :
    stepInstr s = exec (decode s.fetchWord) (s.fetched s.fetchWord) :=
  guardRange_ok (.inr (by omega)) s _

theorem stepInstr_of_pc_gt (h : 0xFFE < s.pc.toNat) :
    stepInstr s = .fault (.boundsError (max s.pc.toNat 0x1000) s) :=
  guardRange_out (by decide) (by omega) s _

theorem resume_stepInstr_pc (h : resume (stepInstr s) = some t) :
    t.pc.toNat = if s.pc.toNat ≤ 0xFFE then pcAfter (decode s.fetchWord) s else s.pc.toNat := by
  by_cases hpc : s.pc.toNat ≤ 0xFFE
  · rw [stepInstr_of_pc_le hpc] at h
    rw [if_pos hpc, resume_exec_pc h, effect_fetched_pc_toNat _ hpc]
  · rw [stepInstr_of_pc_gt (by omega)] at h
    rw [if_neg hpc, ← Option.some.inj h]
    rfl

theorem step_of_nextTransaction_step (h : s.nextTransaction = .step) : step s = stepInstr s.popSchedule := by
  rw [step, h]
  rfl

/-- Settles O47: a STEP's fetch bound, then the row of R14 for the fetched instruction. -/
theorem pcAfterEveryStep : Obligations.PcAfterEveryStep := by
  intro s t hstep h
  rw [step_of_nextTransaction_step hstep] at h
  exact resume_stepInstr_pc (s := s.popSchedule) h

end Sys2Proof.Machine

/-! ## Proofs: the invariant (R15, R19, R22, C11) -/

namespace Sys2Proof.Machine

variable {s t : State} {i : Instr}

/-- The invariant speaks of memory, FONT, PC and the stack alone. -/
theorem Inv.of_same (h : Inv s) (hfont : t.font = s.font) (hmem : t.mem = s.mem) (hpc : t.pc = s.pc)
    (hstack : t.stack = s.stack) (hsp : t.sp = s.sp) : Inv t := by
  unfold Inv PcReachable StackValuesLegal at *
  rwa [hfont, hmem, hpc, hstack, hsp]

theorem inv_resetWith (font : Vector Byte 80) (k : Nat) (l : List Transaction) :
    Inv (State.resetWith font k l) := by
  refine ⟨Memory.wf_reset font k l, ?_, fun j => ?_⟩
  · simp [PcReachable, State.resetWith]
  · simp [State.resetWith]

/-- Settles O56. -/
theorem resetMeetsTheInvariant : Obligations.ResetMeetsTheInvariant :=
  ⟨inv_resetWith _ _ _, inv_resetWith⟩

/-! ### Memory -/

theorem range_of_rangeError_none {count : Nat} (h : rangeError count s = none) (h0 : 0 < count) :
    s.base + count ≤ 4096 := by
  unfold rangeError at h
  split at h
  · cases h
  · rw [State.base]
    omega

theorem writeBytes_base_wf {count : Nat} {l : List Byte} (hm : Memory.wf s.font s.mem)
    (h : rangeError count s = none) (h0 : 0 < count) (hl : l.length = count) :
    Memory.wf (s.writeBytes s.base l).font (s.writeBytes s.base l).mem :=
  Memory.wf_writeBytes l hm (hl ▸ range_of_rangeError_none h h0)

/-- No instruction writes FONT, and only Fx33 and Fx55 write MEM. -/
theorem effect_mem (s : State) (h : Piece.mem ∉ touched i) : (effect i s).mem = s.mem := by
  cases i with
  | bcd | stRegs => simp [touched] at h
  | ret | call | skp | sknp | ldVxK =>
    simp only [effect, State.skipOnKey, State.awaitKey]
    split <;> rfl
  | _ => rfl

theorem effect_mem_wf (hm : Memory.wf s.font s.mem) (h : expectedError i s = none) :
    Memory.wf (effect i s).font (effect i s).mem := by
  cases i with
  | bcd => exact writeBytes_base_wf hm h (by decide) (decimalDigits_length _)
  | stRegs => exact writeBytes_base_wf hm h (Nat.succ_pos _) (regsTo_length s _)
  | _ =>
    rw [effect_sameExcept _ s .font (by simp [touched]), effect_mem s (by simp [touched])]
    exact hm

/-! ### The stack -/

/-- Slots that keep their values stay legal as long as no further slot becomes live. -/
theorem StackValuesLegal.of_sp_le (h : StackValuesLegal s) (hstack : t.stack = s.stack)
    (hsp : t.sp.val ≤ s.sp.val) : StackValuesLegal t := by
  intro k
  obtain ⟨hle, hne, hlive⟩ := h k
  rw [hstack]
  exact ⟨hle, hne, fun hk => hlive (by omega)⟩

/-- A pushed return address is a legal slot (R92). -/
theorem StackValuesLegal.push (h : StackValuesLegal s) (hsp : s.sp.val < 16) {a : Word}
    (ha : 2 ≤ a.toNat ∧ a.toNat ≤ 0x1000) : StackValuesLegal (s.push a hsp) := by
  intro k
  obtain ⟨hle, hne, hlive⟩ := h k
  rw [push_stack_getElem]
  split
  · omega
  · next hk' =>
    refine ⟨hle, hne, fun hk => hlive ?_⟩
    change k.val < s.sp.val + 1 at hk
    omega

theorem effect_stack_legal (hs : StackValuesLegal s) (hpc : 2 ≤ s.pc.toNat ∧ s.pc.toNat ≤ 0x1000) (i : Instr) :
    StackValuesLegal (effect i s) := by
  cases i with
  | call nnn =>
    simp only [effect]
    split
    · next hsp => exact (hs.push hsp hpc).of_sp_le rfl (Nat.le_refl _)
    · exact hs
  | ret =>
    simp only [effect]
    split
    · exact hs.of_sp_le rfl (Nat.sub_le _ _)
    · exact hs
  | _ =>
    exact hs.of_sp_le (effect_sameExcept _ s .stack (by simp [touched]))
      (Nat.le_of_eq (congrArg Fin.val (effect_sameExcept _ s .sp (by simp [touched]))))

/-! ### PC -/

/-- No row of R14 leaves the range of R15, given a fetch below the bound and legal slots. -/
theorem pcAfter_le (h : s.pc.toNat ≤ 0xFFE) (hs : StackValuesLegal s) (i : Instr) : pcAfter i s ≤ 0x10FE := by
  cases i with
  | jp nnn =>
    have hnnn := nnn.isLt
    simp only [pcAfter]
    omega
  | jpV0 nnn =>
    have hnnn := nnn.isLt
    have hv := (s.getV 0).isLt
    simp only [pcAfter]
    omega
  | call nnn =>
    have hnnn := nnn.isLt
    simp only [pcAfter]
    split <;> omega
  | ret =>
    simp only [pcAfter]
    split
    · next hsp =>
      have hslot : s.stack[s.sp.val - 1].toNat ≤ 0x1000 := (hs ⟨s.sp.val - 1, by omega⟩).1
      omega
    · omega
  | skp | sknp =>
    simp only [pcAfter]
    split
    · split <;> omega
    · omega
  | seImm | sneImm | seReg | sneReg | ldVxK =>
    simp only [pcAfter]
    split <;> omega
  | _ =>
    simp only [pcAfter]
    omega

/-! ### The transactions -/

/-- A completed STEP keeps the invariant: memory, PC and the stack, each by its own rule. -/
theorem inv_stepInstr (h : Inv s) (ht : stepInstr s = .next t) : Inv t := by
  obtain ⟨hmem, -, hstack⟩ := h
  have hpc : s.pc.toNat ≤ 0xFFE := by
    by_contra hgt
    rw [stepInstr_of_pc_gt (by omega)] at ht
    cases ht
  rw [stepInstr_of_pc_le hpc] at ht
  obtain ⟨hok, rfl⟩ := exec_next_iff.mp ht
  have hstart : 2 ≤ (s.fetched s.fetchWord).pc.toNat ∧ (s.fetched s.fetchWord).pc.toNat ≤ 0x1000 := by
    rw [fetched_pc_toNat hpc]
    omega
  refine ⟨effect_mem_wf hmem hok, ?_, effect_stack_legal (s := s.fetched s.fetchWord) hstack hstart _⟩
  rw [PcReachable, effect_fetched_pc_toNat _ hpc]
  exact pcAfter_le hpc hstack _

theorem load_next {image : List Byte} (h : load image s = .next t) :
    0x200 + image.length ≤ 4096 ∧ t = { s.writeBytes 0x200 image with launched := true } := by
  unfold load at h
  split at h
  · cases h
  · split at h
    · cases h
    · cases h
      exact ⟨by omega, rfl⟩

theorem inv_load {image : List Byte} (h : Inv s) (ht : load image s = .next t) : Inv t := by
  obtain ⟨hmem, hpc, hstack⟩ := h
  obtain ⟨hfit, rfl⟩ := load_next ht
  exact ⟨Memory.wf_writeBytes image hmem hfit, hpc, hstack⟩

theorem inv_transact {tr : Transaction} (h : Inv s) (ht : transact tr s = .next t) : Inv t := by
  cases tr with
  | step => exact inv_stepInstr h ht
  | load image => exact inv_load h ht
  | reset =>
    cases ht
    exact inv_resetWith _ _ _
  | tick | keySet | fbRead =>
    cases ht
    exact h.of_same rfl rfl rfl rfl rfl

/-- Settles O57: every transaction keeps the invariant, and the schedule is no part of it. -/
theorem everyStepKeepsTheInvariant : Obligations.EveryStepKeepsTheInvariant :=
  fun s _ h ht => inv_transact (s := s.popSchedule) (tr := s.nextTransaction) (h.of_same rfl rfl rfl rfl rfl) ht

end Sys2Proof.Machine

/-! ## Proofs: a register an instruction does not read (R12, R87) -/

namespace Sys2Proof.Machine

variable {s u : State} {r : Reg} {b : Byte} {i : Instr}

/-- The two states agree but for the register `r`. -/
def AgreeOff (r : Reg) (s u : State) : Prop := ∃ c, u = s.setV r c

theorem AgreeOff.of_setV (r : Reg) (s : State) (c : Byte) : AgreeOff r s (s.setV r c) := ⟨c, rfl⟩

theorem AgreeOff.refl (r : Reg) (s : State) : AgreeOff r s s := ⟨s.getV r, by simp⟩

theorem AgreeOff.setV_eq (h : AgreeOff r s u) (c : Byte) : u.setV r c = s.setV r c := by
  obtain ⟨d, rfl⟩ := h
  simp

theorem setV_comm (s : State) {x y : Reg} (h : x ≠ y) (b c : Byte) :
    (s.setV x b).setV y c = (s.setV y c).setV x b := by
  simp only [State.setV]
  rw [Vector.set_comm]
  exact fun hv => h (Fin.ext hv)

/-- A branch on a condition that both states share. -/
theorem agreeOff_dite {c : Prop} [Decidable c] {f f' : c → State} {g g' : ¬c → State}
    (hf : ∀ h, AgreeOff r (f h) (f' h)) (hg : ∀ h, AgreeOff r (g h) (g' h)) :
    AgreeOff r (dite c f g) (dite c f' g') := by
  split
  · exact hf _
  · exact hg _

/-- Writing one register on both sides keeps the agreement, the register `r` itself among them. -/
theorem AgreeOff.setV (h : AgreeOff r s u) (x : Reg) (c : Byte) : AgreeOff r (s.setV x c) (u.setV x c) := by
  by_cases hx : x = r
  · subst hx
    rw [h.setV_eq c]
    exact refl x _
  · obtain ⟨d, rfl⟩ := h
    exact ⟨d, setV_comm s (Ne.symm hx) d c⟩

theorem AgreeOff.setResultFlag (h : AgreeOff r s u) (x : Reg) (c : Byte) (f : Bool) :
    AgreeOff r (s.setResultFlag x c f) (u.setResultFlag x c f) :=
  (h.setV x c).setV vf (flagByte f)

theorem getV_loadRegs_setV (s : State) (r : Reg) (b : Byte) (x : Reg) (a : Nat) (q : Reg) :
    ((s.setV r b).loadRegs x a).getV q =
      ((s.loadRegs x a).setV r (if r.val ≤ x.val then s.readByte (a + r.val) else b)).getV q := by
  by_cases hq : q = r
  · subst hq
    simp
  · simp [hq]

/-- A register load overwrites `r` up to Vx and keeps it above. -/
theorem agreeOff_loadRegs (r : Reg) (s : State) (b : Byte) (x : Reg) (a : Nat) :
    AgreeOff r (s.loadRegs x a) ((s.setV r b).loadRegs x a) := by
  refine ⟨if r.val ≤ x.val then s.readByte (a + r.val) else b, ?_⟩
  have hv : ((s.setV r b).loadRegs x a).v =
      ((s.loadRegs x a).setV r (if r.val ≤ x.val then s.readByte (a + r.val) else b)).v :=
    Vector.ext fun k hk => getV_loadRegs_setV s r b x a ⟨k, hk⟩
  exact congrArg (fun v => { s with v := v }) hv

/-! ### What the read registers determine -/

/-- A register read is another than one not read. -/
theorem setV_getV_of_mem {l : List Reg} (h : r ∉ l) {x : Reg} (hx : x ∈ l) (s : State) (b : Byte) :
    (s.setV r b).getV x = s.getV x := by
  have hne : x ≠ r := fun he => h (he ▸ hx)
  simp [hne]

theorem setV_regsTo {x : Reg} (h : r ∉ regsUpTo x) (s : State) (b : Byte) : (s.setV r b).regsTo x = s.regsTo x := by
  apply List.ext_getElem (by simp)
  intro k hk hk'
  rw [regsTo_getElem, regsTo_getElem]
  refine setV_getV_of_mem h ?_ s b
  rw [mem_regsUpTo, Fin.le_def]
  simpa using Nat.le_of_lt_succ (by simpa using hk')

/-- Two states that differ in a register not read: the effects differ there at most. -/
theorem effect_setV (h : r ∉ readsOf i) (s : State) (b : Byte) :
    AgreeOff r (effect i s) (effect i (s.setV r b)) := by
  have hread : ∀ x ∈ readsOf i, (s.setV r b).getV x = s.getV x := fun x hx => setV_getV_of_mem h hx s b
  have hsame := AgreeOff.of_setV r s b
  cases i with
  | cls | jp | ldI | undef => exact ⟨b, rfl⟩
  | ret =>
    exact agreeOff_dite (c := 0 < s.sp.val) (fun _ => ⟨b, rfl⟩) (fun _ => ⟨b, rfl⟩)
  | call =>
    exact agreeOff_dite (c := s.sp.val < 16) (fun _ => ⟨b, rfl⟩) (fun _ => ⟨b, rfl⟩)
  | seImm x | sneImm x | jpV0 | ldDtVx x | ldStVx x | addI x | ldF x | bcd x =>
    simp only [effect, hread _ (List.mem_singleton_self _)]
    exact ⟨b, rfl⟩
  | seReg x y | sneReg x y =>
    simp only [effect, hread x (by simp [readsOf]), hread y (by simp [readsOf])]
    exact ⟨b, rfl⟩
  | skp x | sknp x =>
    simp only [effect, hread _ (List.mem_singleton_self _), State.skipOnKey]
    split <;> exact ⟨b, rfl⟩
  | ldImm | ldVxDt => exact hsame.setV _ _
  | addImm x | ldReg x y =>
    simp only [effect, hread _ (List.mem_singleton_self _)]
    exact hsame.setV _ _
  | orReg x y | andReg x y | xorReg x y =>
    simp only [effect, hread x (by simp [readsOf]), hread y (by simp [readsOf])]
    exact hsame.setV _ _
  | addReg x y | sub x y | subn x y =>
    simp only [effect, hread x (by simp [readsOf]), hread y (by simp [readsOf])]
    exact hsame.setResultFlag _ _ _
  | shr x | shl x =>
    simp only [effect, hread _ (List.mem_singleton_self _)]
    exact hsame.setResultFlag _ _ _
  | rnd x nn =>
    obtain ⟨c, hc⟩ := hsame.setV x (Config.rnd s.draws &&& nn)
    exact ⟨c, congrArg State.nextDraw hc⟩
  | drw x y n =>
    have hd : (s.setV r b).drawing x y n = s.drawing x y n := by
      unfold State.drawing
      rw [hread x (by simp [readsOf]), hread y (by simp [readsOf])]
      rfl
    simp only [effect, hd]
    exact (AgreeOff.of_setV r (s.setFb _) b).setV vf _
  | ldVxK x =>
    simp only [effect, State.awaitKey, State.setV_key]
    split
    · exact hsame.setV _ _
    · exact ⟨b, rfl⟩
  | stRegs x =>
    simp only [effect, setV_regsTo h s b]
    exact ⟨b, rfl⟩
  | ldRegs x => exact agreeOff_loadRegs r s b x _

/-- The same error, its code and info value, carrying another state. -/
def Fault.inState (t : State) : Fault → Fault
  | .capacityError n _ => .capacityError n t
  | .stackOverflow a _ => .stackOverflow a t
  | .stackUnderflow _ => .stackUnderflow t
  | .boundsError n _ => .boundsError n t

@[simp] theorem Fault.inState_code (t : State) (f : Fault) : (f.inState t).code = f.code := by
  cases f <;> rfl

@[simp] theorem Fault.inState_info (t : State) (f : Fault) : (f.inState t).info = f.info := by
  cases f <;> rfl

@[simp] theorem Fault.inState_after (t : State) (f : Fault) : (f.inState t).after = t := by
  cases f <;> rfl

theorem rangeError_setV (count : Nat) (s : State) (r : Reg) (b : Byte) :
    rangeError count (s.setV r b) = (rangeError count s).map (Fault.inState (s.setV r b)) := by
  by_cases h : 1 ≤ count ∧ 0xFFF < s.ireg.toNat + count - 1
  · rw [rangeError, rangeError, if_pos h]
    exact if_pos h
  · rw [rangeError, rangeError, if_neg h]
    exact if_neg h

/-- Two states that differ in a register not read: the same error, or none, is due in both. -/
theorem expectedError_setV (h : r ∉ readsOf i) (s : State) (b : Byte) :
    expectedError i (s.setV r b) = (expectedError i s).map (Fault.inState (s.setV r b)) := by
  cases i with
  | drw | bcd | stRegs | ldRegs => exact rangeError_setV _ s r b
  | ret => by_cases hsp : s.sp.val = 0 <;> simp [expectedError, hsp, Fault.inState]
  | call => by_cases hsp : s.sp.val = 16 <;> simp [expectedError, hsp, Fault.inState]
  | skp x | sknp x =>
    simp only [expectedError, setV_getV_of_mem h (List.mem_singleton_self x)]
    split <;> rfl
  | _ => rfl

/-- Settles O49: neither the error due nor, off that register, the effect depends on a register not read. -/
theorem unreadRegistersDoNotMatter : Obligations.UnreadRegistersDoNotMatter := by
  intro i s r b hr
  refine ⟨fun t ht => ?_, fun f hf => ?_⟩
  · obtain ⟨hnone, rfl⟩ := exec_next_iff.mp ht
    have hnone' : expectedError i (s.setV r b) = none := by rw [expectedError_setV hr, hnone]; rfl
    exact ⟨_, exec_next_iff.mpr ⟨hnone', rfl⟩, (effect_setV hr s b).setV_eq _⟩
  · have hsome := exec_fault_iff.mp hf
    have hsome' : expectedError i (s.setV r b) = some (f.inState (s.setV r b)) := by
      rw [expectedError_setV hr, hsome]; rfl
    refine ⟨_, exec_fault_iff.mpr hsome', f.inState_code _, f.inState_info _, ?_⟩
    rw [Fault.inState_after, expectedError_after hsome]

end Sys2Proof.Machine

/-! ## Proofs: RESET (R28, R180) -/

namespace Sys2Proof.Machine

theorem unlistedByte_font (font : Vector Byte 80) (k : Fin 80) : unlistedByte font (0x050 + k.val) = font[k] := by
  rw [unlistedByte, dif_pos (by omega)]
  simp

theorem unlistedByte_outside (font : Vector Byte 80) {a : Nat} (h : a < 0x050 ∨ 0x09F < a) :
    unlistedByte font a = 0x00#8 :=
  dif_neg (by omega)

/-- Settles O43: memory after RESET is unlisted everywhere, and every other piece is zero by definition. -/
theorem resetLeavesTheResetState : Obligations.ResetLeavesTheResetState := by
  intro s
  refine ⟨hostReset s, rfl, fun r => ?_, rfl, rfl, rfl, fun k => ?_, rfl, rfl, Framebuffer.cell_clear,
    fun k => ?_, rfl, unlistedByte_font s.font, fun a => unlistedByte_outside s.font⟩
  all_goals simp [hostReset, State.resetWith, State.getV]

end Sys2Proof.Machine

/-! ## Proofs: a store over the next instruction (R53, R82, R124) -/

namespace Sys2Proof.Machine

variable {s t : State} {x r : Reg}

/-- A dump leaves `V[r]` at `I + r`, for every register up to Vx (R124). -/
theorem effect_stRegs_readByte (h : r ≤ x) :
    (effect (.stRegs x) s).readByte (s.ireg.toNat + r.val) = s.getV r := by
  have hr : r.val < (s.regsTo x).length := by
    rw [regsTo_length]
    exact Nat.lt_succ_of_le h
  simp only [effect, State.base]
  rw [State.writeBytes_readByte, dif_pos ⟨Nat.le_add_right _ _, by rwa [Nat.add_sub_cancel_left]⟩]
  simp [regsTo_getElem]

/-- A dump that completes ends inside MEM, so Vx went to an address of at most 0xFFF (R46, R124). -/
theorem base_add_le_of_stRegs (h : exec (.stRegs x) s = .next t) : s.ireg.toNat + x.val ≤ 0xFFF := by
  have hrange : s.ireg.toNat + (x.val + 1) ≤ 4096 :=
    range_of_rangeError_none (exec_next_iff.mp h).1 (Nat.succ_pos _)
  omega

/-- A STEP with PC inside the fetch bound executes the word at PC (R80, R82). -/
theorem step_of_pc_le (hstep : s.nextTransaction = .step) (hpc : s.pc.toNat ≤ 0xFFE) :
    step s = exec (decode s.fetchWord) (s.popSchedule.fetched s.fetchWord) := by
  rw [step_of_nextTransaction_step hstep]
  exact stepInstr_of_pc_le (s := s.popSchedule) hpc

/-- Settles O32: the dump ends inside MEM, so the fetch bound holds, and the fetch reads the two bytes just stored. -/
theorem fetchSeesTheStore : Obligations.FetchSeesTheStore := by
  intro x hi lo s t ht hstep hnext hlo hpc
  have hlt : hi < lo := Fin.lt_def.mpr (by omega)
  have hlast : lo.val ≤ x.val := hlo
  have hfit := base_add_le_of_stRegs ht
  obtain ⟨-, rfl⟩ := exec_next_iff.mp ht
  have hfetch : (effect (.stRegs x) s).fetchWord = s.getV hi ++ s.getV lo := by
    rw [State.fetchWord, hpc, Nat.add_assoc, hnext, effect_stRegs_readByte (hlt.le.trans hlo),
      effect_stRegs_readByte hlo]
    rfl
  rw [step_of_pc_le hstep (by omega), hfetch]
  rfl

end Sys2Proof.Machine

/-! ## Proofs: decoding loses no bit, and meets the opcode map (R60 to R73) -/

namespace Sys2Proof

variable {i : Instr} {op : Word} {r : OpcodeRow}

/-! ### The word of the decoded instruction (R73) -/

theorem encodeNnn_of_fam {f : BitVec 4} (hf : Word.fam op = f) : encodeNnn f (Word.nnn op) = op :=
  hf ▸ encodeNnn_fields op

theorem encodeXnn_of_fam_nn {f : BitVec 4} {nn : Byte} (hf : Word.fam op = f) (hnn : Word.nn op = nn) :
    encodeXnn f (Word.x op) nn = op :=
  hf ▸ hnn ▸ encodeXnn_fields op

theorem encodeXyn_of_fam_n {f : BitVec 4} {n : Nibble} (hf : Word.fam op = f) (hn : Word.n op = n) :
    encodeXyn f (Word.x op) (Word.y op) n = op :=
  hf ▸ hn ▸ encodeXyn_fields op

theorem encode_decodeFamily0 (op : Word) : encode (decodeFamily0 op) = op := by
  unfold decodeFamily0
  split_ifs with hcls hret
  · exact hcls.symm
  · exact hret.symm
  · rfl

theorem encode_decodeFamily8 (hf : Word.fam op = 0x8#4) : encode (decodeFamily8 op) = op := by
  unfold decodeFamily8
  split
  case h_10 => rfl
  all_goals
    next hn => exact encodeXyn_of_fam_n hf hn

theorem encode_decodeFamilyE (hf : Word.fam op = 0xE#4) : encode (decodeFamilyE op) = op := by
  unfold decodeFamilyE
  split
  case h_3 => rfl
  all_goals
    next hnn => exact encodeXnn_of_fam_nn hf hnn

theorem encode_decodeFamilyF (hf : Word.fam op = 0xF#4) : encode (decodeFamilyF op) = op := by
  unfold decodeFamilyF
  split
  case h_10 => rfl
  all_goals
    next hnn => exact encodeXnn_of_fam_nn hf hnn

/-- Families 5 and 9: format XYN when `n = 0`, UNDEF of the word itself otherwise (R70). -/
theorem encode_ite_n_zero {f : BitVec 4} (hf : Word.fam op = f)
    (hi : encode i = encodeXyn f (Word.x op) (Word.y op) 0x0#4) :
    encode (if Word.n op = 0x0#4 then i else .undef op) = op := by
  split
  next hn => exact hi.trans (encodeXyn_of_fam_n hf hn)
  next => rfl

/-- Decoding loses no bit (R73): the word is its fields, in the format of its family. -/
theorem encode_decode (op : Word) : encode (decode op) = op := by
  rcases fam_cases (Word.fam op) with
    h | h | h | h | h | h | h | h | h | h | h | h | h | h | h | h
  · rw [decode_fam0 h, encode_decodeFamily0]
  · rw [decode_fam1 h, encode, encodeNnn_of_fam h]
  · rw [decode_fam2 h, encode, encodeNnn_of_fam h]
  · rw [decode_fam3 h, encode, encodeXnn_of_fam_nn h rfl]
  · rw [decode_fam4 h, encode, encodeXnn_of_fam_nn h rfl]
  · rw [decode_fam5 h, encode_ite_n_zero h rfl]
  · rw [decode_fam6 h, encode, encodeXnn_of_fam_nn h rfl]
  · rw [decode_fam7 h, encode, encodeXnn_of_fam_nn h rfl]
  · rw [decode_fam8 h, encode_decodeFamily8 h]
  · rw [decode_fam9 h, encode_ite_n_zero h rfl]
  · rw [decode_famA h, encode, encodeNnn_of_fam h]
  · rw [decode_famB h, encode, encodeNnn_of_fam h]
  · rw [decode_famC h, encode, encodeXnn_of_fam_nn h rfl]
  · rw [decode_famD h, encode, encodeXyn_of_fam_n h rfl]
  · rw [decode_famE h, encode_decodeFamilyE h]
  · rw [decode_famF h, encode_decodeFamilyF h]

/-- UNDEF carries the word it was decoded from. -/
theorem eq_of_decode_eq_undef {w : Word} (h : decode op = .undef w) : w = op := by
  rw [← encode_decode op, h, encode]

/-! ### The rows a word matches (R64, R71, R72) -/

/-- A row with mask 0xFFFF compares the whole word (R66). -/
theorem matchesWord_FFFF_eq_beq (name : String) (m op : Word) :
    OpcodeRow.matchesWord ⟨name, m, 0xFFFF#16⟩ op = (op == m) := by
  rw [OpcodeRow.matchesWord, and_FFFF]

/-- A row a word matches is that of the decoded instruction. The row's mask fixes exactly the fields (R61) that the decode
tree looks at on the way to its leaf: `fam` alone, `fam` with `n` or `nn`, or the whole word. -/
theorem mnemonic_decode_of_matchesWord :
    ∀ r ∈ opcodeTable, r.matchesWord op = true → (decode op).mnemonic = r.mnemonic := by
  rw [forall_opcodeTable]
  simp (disch := decide) only [opcodeRowsLow, opcodeRowsHigh, List.forall_mem_cons, matchesWord_F000, matchesWord_F00F,
    matchesWord_F0FF, matchesWord_FFFF_eq_beq, Bool.and_eq_true, beq_iff_eq]
  simp +contextual [decode, decodeFamily0, decodeFamily8, decodeFamilyE, decodeFamilyF, Instr.mnemonic,
    Word.fam, Word.n, Word.nn]

theorem mnemonic_ne_undef : ∀ r ∈ opcodeTable, r.mnemonic ≠ "UNDEF" := by decide

/-- A word that decodes to UNDEF matches no row: no row is called UNDEF (R71). -/
theorem matchesWord_eq_false_of_decode_eq_undef (h : decode op = .undef op) (hr : r ∈ opcodeTable) :
    r.matchesWord op = false := by
  by_contra hmatch
  have hname := mnemonic_decode_of_matchesWord r hr (by simpa using hmatch)
  rw [h] at hname
  exact mnemonic_ne_undef r hr hname.symm

theorem wellFormed_undef_iff : WellFormed (.undef op) = true ↔ ∀ r ∈ opcodeTable, r.matchesWord op = false := by
  simp [WellFormed, recognised]

theorem wellFormed_of_ne_undef (h : ∀ w, i ≠ .undef w) : WellFormed i = true := by
  cases i with
  | undef w => exact absurd rfl (h w)
  | _ => rfl

/-- Every word decodes to a well-formed instruction (R72). -/
theorem wellFormed_decode (op : Word) : WellFormed (decode op) = true := by
  by_cases h : ∃ w, decode op = .undef w
  · obtain ⟨w, hw⟩ := h
    obtain rfl := eq_of_decode_eq_undef hw
    rw [hw, wellFormed_undef_iff]
    exact fun _ => matchesWord_eq_false_of_decode_eq_undef hw
  · exact wellFormed_of_ne_undef (not_exists.mp h)

/-- Settles O2. -/
theorem encodeOfDecode : Obligations.EncodeOfDecode :=
  fun op => ⟨wellFormed_decode op, encode_decode op⟩

/-- The family OwnRow, for every instruction. -/
theorem ownRow : ∀ i : Instr, Laws.OwnRow.Statement i
  | .cls => Laws.OwnRow.cls
  | .ret => Laws.OwnRow.ret
  | .jp nnn => Laws.OwnRow.jp nnn
  | .call nnn => Laws.OwnRow.call nnn
  | .seImm x nn => Laws.OwnRow.seImm x nn
  | .sneImm x nn => Laws.OwnRow.sneImm x nn
  | .seReg x y => Laws.OwnRow.seReg x y
  | .ldImm x nn => Laws.OwnRow.ldImm x nn
  | .addImm x nn => Laws.OwnRow.addImm x nn
  | .ldReg x y => Laws.OwnRow.ldReg x y
  | .orReg x y => Laws.OwnRow.orReg x y
  | .andReg x y => Laws.OwnRow.andReg x y
  | .xorReg x y => Laws.OwnRow.xorReg x y
  | .addReg x y => Laws.OwnRow.addReg x y
  | .sub x y => Laws.OwnRow.sub x y
  | .shr x y => Laws.OwnRow.shr x y
  | .subn x y => Laws.OwnRow.subn x y
  | .shl x y => Laws.OwnRow.shl x y
  | .sneReg x y => Laws.OwnRow.sneReg x y
  | .ldI nnn => Laws.OwnRow.ldI nnn
  | .jpV0 nnn => Laws.OwnRow.jpV0 nnn
  | .rnd x nn => Laws.OwnRow.rnd x nn
  | .drw x y n => Laws.OwnRow.drw x y n
  | .skp x => Laws.OwnRow.skp x
  | .sknp x => Laws.OwnRow.sknp x
  | .ldVxDt x => Laws.OwnRow.ldVxDt x
  | .ldVxK x => Laws.OwnRow.ldVxK x
  | .ldDtVx x => Laws.OwnRow.ldDtVx x
  | .ldStVx x => Laws.OwnRow.ldStVx x
  | .addI x => Laws.OwnRow.addI x
  | .ldF x => Laws.OwnRow.ldF x
  | .bcd x => Laws.OwnRow.bcd x
  | .stRegs x => Laws.OwnRow.stRegs x
  | .ldRegs x => Laws.OwnRow.ldRegs x
  | .undef op => Laws.OwnRow.undef op

/-- A word matches exactly the row of its decoded instruction: it is that instruction's word. -/
theorem matchesWord_iff_mnemonic_decode (hr : r ∈ opcodeTable) :
    r.matchesWord op = true ↔ r.mnemonic = (decode op).mnemonic := by
  have h := ownRow (decode op) (wellFormed_decode op) r hr
  rwa [encode_decode] at h

theorem exists_row_of_ne_undef (h : ∀ w, i ≠ .undef w) : ∃ r ∈ opcodeTable, r.mnemonic = i.mnemonic := by
  cases i with
  | undef w => exact absurd rfl (h w)
  | _ =>
    simp only [Instr.mnemonic]
    decide

/-- UNDEF is the decoding of the words no row matches (R71): any other instruction has a row, which would match. -/
theorem decode_eq_undef_iff : decode op = .undef op ↔ ∀ r ∈ opcodeTable, r.matchesWord op = false := by
  refine ⟨fun h _ => matchesWord_eq_false_of_decode_eq_undef h, fun hno => ?_⟩
  by_cases h : ∃ w, decode op = .undef w
  · obtain ⟨w, hw⟩ := h
    rwa [eq_of_decode_eq_undef hw] at hw
  · obtain ⟨r, hr, hname⟩ := exists_row_of_ne_undef (not_exists.mp h)
    have hmatch := (matchesWord_iff_mnemonic_decode hr).mpr hname
    rw [hno r hr] at hmatch
    cases hmatch

/-- Settles O3. -/
theorem everyWordHasItsRow : Obligations.EveryWordHasItsRow :=
  fun _ => ⟨fun _ => matchesWord_iff_mnemonic_decode, decode_eq_undef_iff⟩

/-! ### The decoding of an encoded instruction (R60 to R64) -/

/-- Decoding undoes encoding: the fields of the format select the instruction's leaf of the decode tree; UNDEF's word
matches no row. -/
theorem decode_encode (h : WellFormed i = true) : decode (encode i) = i := by
  cases i with
  | cls | ret => rfl
  | jp | call | ldI | jpV0 => simp [encode, decode]
  | seImm | sneImm | ldImm | addImm | rnd => simp [encode, decode]
  | seReg | sneReg | drw => simp [encode, decode]
  | ldReg | orReg | andReg | xorReg | addReg | sub | shr | subn | shl => simp [encode, decode, decodeFamily8]
  | skp | sknp => simp [encode, decode, decodeFamilyE]
  | ldVxDt | ldVxK | ldDtVx | ldStVx | addI | ldF | bcd | stRegs | ldRegs => simp [encode, decode, decodeFamilyF]
  | undef op => exact decode_eq_undef_iff.mpr (wellFormed_undef_iff.mp h)

/-- A word is its two bytes, high byte first (R42, R60). -/
theorem wordOfBytes_extractLsb' (op : Word) : wordOfBytes (op.extractLsb' 8 8) (op.extractLsb' 0 8) = op := by
  have happend : op.extractLsb' 8 8 ++ op.extractLsb' 0 8 = op.extractLsb' 0 16 :=
    BitVec.extractLsb'_append_extractLsb'_eq_extractLsb' rfl
  exact happend.trans BitVec.extractLsb'_eq_self

theorem decodeBytes_encodeBytes_append (i : Instr) (rest : List Byte) :
    decodeBytes (encodeBytes i ++ rest) = .ok (decode (encode i), rest) := by
  simp [encodeBytes, decodeBytes, wordOfBytes_extractLsb']

/-- Settles O1. -/
theorem decodeOfEncode : Obligations.DecodeOfEncode := by
  intro i rest h
  rw [decodeBytes_encodeBytes_append, decode_encode h]

/-- Settles O4, by running the decoder on each word. -/
theorem sampleWordsDecode : Obligations.SampleWordsDecode := by
  unfold Obligations.SampleWordsDecode
  decide

end Sys2Proof

/-! ## Proofs: what is refused (R71, R183, R191) -/

namespace Sys2Proof.Machine

variable {s : State} {i : Instr} {r : Refusal} {image : List Byte}

/-- A handler completes or raises an error (R150). -/
theorem exec_ne_refused (i : Instr) (s : State) (r : Refusal) : exec i s ≠ .refused r := by
  rw [exec_eq]
  cases expectedError i s <;> simp

theorem stepInstr_ne_refused (s : State) (r : Refusal) : stepInstr s ≠ .refused r := by
  rcases Nat.lt_or_ge 0xFFE s.pc.toNat with h | h
  · rw [stepInstr_of_pc_gt h]
    simp
  · rw [stepInstr_of_pc_le h]
    exact exec_ne_refused _ _ r

/-- A LOAD is refused exactly after the launch (log 4). -/
theorem load_refused_iff : load image s = .refused r ↔ s.launched = true ∧ r = .loadAfterLaunch := by
  unfold load
  split
  next h => simp [h, eq_comm]
  next h => split <;> simp [h, raise]

/-- LOAD is the one transaction that can be refused. -/
theorem transact_refused {tr : Transaction} (h : transact tr s = .refused r) :
    r = .loadAfterLaunch ∧ s.launched = true ∧ ∃ image, tr = .load image := by
  cases tr with
  | load image =>
    obtain ⟨hlaunched, hr⟩ := load_refused_iff.mp h
    exact ⟨hr, hlaunched, image, rfl⟩
  | step => exact absurd h (stepInstr_ne_refused s r)
  | reset | tick | keySet | fbRead => cases h

/-- Settles O54. -/
theorem onlyALateLoadIsRefused : Obligations.OnlyALateLoadIsRefused :=
  ⟨exec_ne_refused, fun s _ h => transact_refused (s := s.popSchedule) h⟩

end Sys2Proof.Machine

/-! ## Proofs: the fetch and what an error leaves (R80 to R89, R160) -/

namespace Sys2Proof.Machine

variable {s t : State} {i : Instr} {f : Fault} {image : List Byte}

/-! ### What the fetch leaves (R82, R83) -/

/-- Two bytes decode to the instruction of their word, and no byte is left over (R60, R82). -/
theorem decodeBytes_pair {hi lo : Byte} {rest : List Byte} (h : decodeBytes [hi, lo] = .ok (i, rest)) :
    decode (wordOfBytes hi lo) = i :=
  congrArg Prod.fst (Except.ok.inj h)

/-- Settles O6: the two bytes at PC are the word the STEP decodes. -/
theorem stepRunsDecodedInstruction : Obligations.StepRunsDecodedInstruction := by
  intro s i hstep hpc hdecode
  obtain rfl := decodeBytes_pair hdecode
  exact ⟨wellFormed_decode _, step_of_pc_le hstep hpc⟩

theorem sameExcept_popSchedule (s : State) : SameExcept [.schedule] s s.popSchedule := by
  intro p hp
  cases p <;> simp_all [SamePiece]

theorem sameExcept_fetched (s : State) (w : Word) : SameExcept [.pc, .opcode, .launched] s (s.fetched w) := by
  intro p hp
  cases p <;> simp_all [SamePiece]

/-- The state in which a STEP's handler starts: PC advanced by 2, OPCODE the word, the rest as before the STEP. -/
theorem popSchedule_fetched_spec (h : s.pc.toNat ≤ 0xFFE) (w : Word) :
    (s.popSchedule.fetched w).pc.toNat = s.pc.toNat + 2 ∧ (s.popSchedule.fetched w).opcode = w ∧
      SameExcept [.pc, .opcode, .launched, .schedule] s (s.popSchedule.fetched w) :=
  ⟨fetched_pc_toNat (s := s.popSchedule) h w, rfl,
    ((sameExcept_popSchedule s).mono (by simp)).trans ((sameExcept_fetched _ w).mono (by simp))⟩

/-- Settles O8: a word no row matches decodes to UNDEF, whose handler leaves the state the fetch left. -/
theorem unrecognisedWordIsNoop : Obligations.UnrecognisedWordIsNoop := by
  refine ⟨fun op s => ⟨s, rfl, SameExcept.refl _ s⟩, fun s hstep hpc hno => ?_⟩
  refine ⟨s.popSchedule.fetched s.fetchWord, ?_, popSchedule_fetched_spec hpc _⟩
  rw [step_of_pc_le hstep hpc, decode_eq_undef_iff.mpr hno]
  rfl

/-! ### What an error leaves (R81, R89, R150) -/

/-- An error of the fetch leaves the state as it was, one of the handler leaves the state the fetch left. -/
theorem stepInstr_fault_after (h : stepInstr s = .fault f) :
    f.after = if s.pc.toNat ≤ 0xFFE then s.fetched s.fetchWord else s := by
  by_cases hpc : s.pc.toNat ≤ 0xFFE
  · rw [stepInstr_of_pc_le hpc] at h
    rw [if_pos hpc, expectedError_after (exec_fault_iff.mp h)]
  · rw [stepInstr_of_pc_gt (by omega)] at h
    cases h
    rw [if_neg hpc]
    rfl

/-- A LOAD that raises an error has changed nothing (R151, R182). -/
theorem load_fault_after (h : load image s = .fault f) : f.after = s := by
  unfold load at h
  split at h
  · cases h
  · split at h <;> cases h
    rfl

/-- Settles O53, case by case of the fetch bound. -/
theorem errorsLeaveTheRestUnchanged : Obligations.ErrorsLeaveTheRestUnchanged := by
  intro s f hstep hf
  rw [step_of_nextTransaction_step hstep] at hf
  have hafter : f.after = if s.pc.toNat ≤ 0xFFE then s.popSchedule.fetched s.fetchWord else s.popSchedule :=
    stepInstr_fault_after hf
  constructor
  · intro hpc
    rw [if_neg (Nat.not_le.mpr hpc)] at hafter
    exact hafter ▸ sameExcept_popSchedule s
  · intro hpc
    rw [if_pos hpc] at hafter
    exact hafter ▸ popSchedule_fetched_spec hpc s.fetchWord

/-- The fetch takes PC to at most 0x1000 and touches neither memory nor the stack. -/
theorem Inv.fetched (h : Inv s) (hpc : s.pc.toNat ≤ 0xFFE) (w : Word) : Inv (s.fetched w) := by
  obtain ⟨hmem, -, hstack⟩ := h
  refine ⟨hmem, ?_, hstack⟩
  rw [PcReachable, fetched_pc_toNat hpc]
  omega

theorem inv_stepInstr_fault (h : Inv s) (hf : stepInstr s = .fault f) : Inv f.after := by
  rw [stepInstr_fault_after hf]
  split
  · next hpc => exact h.fetched hpc _
  · exact h

theorem inv_transact_fault {tr : Transaction} (h : Inv s) (hf : transact tr s = .fault f) : Inv f.after := by
  cases tr with
  | step => exact inv_stepInstr_fault h hf
  | load image => rwa [load_fault_after hf]
  | reset | tick | keySet | fbRead => cases hf

/-- Settles O58: STEP and LOAD alone raise errors, and the schedule is no part of the invariant. -/
theorem errorsKeepTheInvariant : Obligations.ErrorsKeepTheInvariant :=
  fun s _ h hf => inv_transact_fault (s := s.popSchedule) (h.of_same rfl rfl rfl rfl rfl) hf

/-! ### PC above the fetch bound (R81) -/

/-- The host goes on from the next state, or from the state an error left (R160). -/
theorem resume_eq_some {r : Result} (h : resume r = some t) : r = .next t ∨ ∃ f, r = .fault f ∧ f.after = t := by
  cases r with
  | next u => exact .inl (congrArg _ (Option.some.inj h))
  | fault f => exact .inr ⟨f, rfl, Option.some.inj h⟩
  | refused => cases h

theorem resume_load_pc (h : resume (load image s) = some t) : t.pc = s.pc := by
  obtain hnext | ⟨f, hfault, rfl⟩ := resume_eq_some h
  · obtain ⟨-, rfl⟩ := load_next hnext
    rfl
  · rw [load_fault_after hfault]

/-- Above the fetch bound no transaction but RESET moves PC: STEP fails, and the others never write it. -/
theorem resume_transact_pc_of_pc_gt (hpc : 0xFFE < s.pc.toNat) {tr : Transaction} (hreset : tr ≠ .reset)
    (h : resume (transact tr s) = some t) : t.pc = s.pc := by
  cases tr with
  | reset => exact absurd rfl hreset
  | load image => exact resume_load_pc h
  | step =>
    rw [transact, stepInstr_of_pc_gt hpc] at h
    cases h
    rfl
  | tick | keySet | fbRead =>
    cases h
    rfl

/-- Settles O7. -/
theorem fetchBoundRepeats : Obligations.FetchBoundRepeats := by
  refine fun s hpc => ⟨fun hstep => ?_, stepInstr_of_pc_gt hpc, fun _ _ => resume_transact_pc_of_pc_gt hpc⟩
  rw [step_of_nextTransaction_step hstep]
  exact stepInstr_of_pc_gt (s := s.popSchedule) hpc

end Sys2Proof.Machine

/-! ## Proofs: the flag each flag instruction writes (R88, R106 to R110) -/

namespace Sys2Proof.Machine

theorem flagByte_toNat (c : Bool) : (flagByte c).toNat = c.toNat := by
  cases c <;> rfl

theorem flagByte_carry_toNat (a b : Byte) :
    (flagByte (carry a b)).toNat = if 255 < a.toNat + b.toNat then 1 else 0 := by
  rw [flagByte_toNat, carry, Bool.toNat, Bool.cond_decide]

theorem flagByte_noBorrow_toNat (a b : Byte) :
    (flagByte (noBorrow a b)).toNat = if b.toNat ≤ a.toNat then 1 else 0 := by
  rw [flagByte_toNat, noBorrow, Bool.toNat, Bool.cond_decide]

theorem flagByte_bitOutRight_toNat (a : Byte) : (flagByte (bitOutRight a)).toNat = a.toNat % 2 := by
  rw [flagByte_toNat, bitOutRight, BitVec.getLsbD, Nat.toNat_testBit, pow_zero, Nat.div_one]

/-- Bit 7 is the whole quotient by 128, a byte being below 256. -/
theorem flagByte_bitOutLeft_toNat (a : Byte) : (flagByte (bitOutLeft a)).toNat = a.toNat / 128 := by
  have ha := a.isLt
  rw [flagByte_toNat, bitOutLeft, BitVec.getLsbD, Nat.toNat_testBit]
  omega

/-- The flag is written after the result, so it is what VF holds, for x = F too (R88, D4). -/
theorem setResultFlag_getV_vf_toNat {s : State} {x : Reg} {r : Byte} {c : Bool} {n : Nat}
    (h : (flagByte c).toNat = n) : ((s.setResultFlag x r c).getV vf).toNat = n := by
  rw [State.setResultFlag, setV_getV_same, h]

/-- Settles O24: each of the five completes with its effect, in which VF is the flag of the old operands. -/
theorem flagIsWrittenLast : Obligations.FlagIsWrittenLast := fun _ _ =>
  ⟨⟨_, rfl, setResultFlag_getV_vf_toNat (flagByte_carry_toNat _ _)⟩,
    ⟨_, rfl, setResultFlag_getV_vf_toNat (flagByte_noBorrow_toNat _ _)⟩,
    ⟨_, rfl, setResultFlag_getV_vf_toNat (flagByte_noBorrow_toNat _ _)⟩,
    ⟨_, rfl, setResultFlag_getV_vf_toNat (flagByte_bitOutRight_toNat _)⟩,
    ⟨_, rfl, setResultFlag_getV_vf_toNat (flagByte_bitOutLeft_toNat _)⟩⟩

end Sys2Proof.Machine

/-! ## Proofs: control transfer (R90 to R99) -/

namespace Sys2Proof.Machine

variable {s t : State}

/-! ### Live stack slots (R92, R94, R99) -/

/-- A call writes the slot at SP, every other instruction none: the slots below SP are kept, and a return frees its slot
without writing it (R27). -/
theorem effect_stack_getElem_of_lt_sp (i : Instr) {k : Fin 16} (hk : k.val < s.sp.val) :
    (effect i s).stack[k] = s.stack[k] := by
  cases i with
  | call nnn =>
    simp only [effect]
    split
    · next hsp => exact (push_stack_getElem s s.pc hsp k).trans (if_neg (Nat.ne_of_lt hk))
    · rfl
  | _ => exact congrArg (·[k]) (effect_sameExcept _ s .stack (by simp [touched]))

theorem stepInstr_next (h : stepInstr s = .next t) : t = effect (decode s.fetchWord) (s.fetched s.fetchWord) := by
  obtain ⟨-, hexec⟩ := guardRange_next h
  exact (exec_next_iff.mp hexec).2.symm

theorem transact_stack_getElem_of_lt_sp {tr : Transaction} (hreset : tr ≠ .reset) (h : transact tr s = .next t)
    {k : Fin 16} (hk : k.val < s.sp.val) : t.stack[k] = s.stack[k] := by
  cases tr with
  | reset => exact absurd rfl hreset
  | step =>
    rw [stepInstr_next h]
    exact effect_stack_getElem_of_lt_sp (s := s.fetched s.fetchWord) _ hk
  | load image =>
    obtain ⟨-, rfl⟩ := load_next h
    rfl
  | tick | keySet | fbRead =>
    cases h
    rfl

/-- Settles O16: a slot below the old SP is kept, wherever the new SP is. -/
theorem liveSlotsAreKept : Obligations.LiveSlotsAreKept :=
  fun s _ hreset h _ hk _ => transact_stack_getElem_of_lt_sp (s := s.popSchedule) hreset h hk

/-- Along a path on which SP never goes below where it started, every slot live at the start is kept (R99, log 7). -/
theorem path_stack_getElem {path : Nat → State} {n : Nat}
    (h : ∀ k, k < n → step (path k) = .next (path (k + 1)) ∧ (path k).nextTransaction ≠ .reset ∧
      (path 0).sp ≤ (path (k + 1)).sp) {j : Fin 16} (hj : j.val < (path 0).sp.val) :
    (path n).stack[j] = (path 0).stack[j] := by
  suffices hkeep : (path 0).sp ≤ (path n).sp ∧ (path n).stack[j] = (path 0).stack[j] from hkeep.2
  induction n with
  | zero => exact ⟨le_rfl, rfl⟩
  | succ n ih =>
    obtain ⟨hsp, hslot⟩ := ih fun k hk => h k (Nat.lt_succ_of_lt hk)
    obtain ⟨hstep, hreset, hsp'⟩ := h n (Nat.lt_succ_self n)
    have hlive : j.val < (path n).sp.val := Nat.lt_of_lt_of_le hj hsp
    exact ⟨hsp', (transact_stack_getElem_of_lt_sp (s := (path n).popSchedule) hreset hstep hlive).trans hslot⟩

/-! ### Call and return (R92, R94) -/

theorem exec_call_of_sp_lt (nnn : Addr12) (h : s.sp.val < 16) :
    exec (.call nnn) s = .next ((s.push s.pc h).setPc (addrOfImm nnn)) :=
  dif_pos h

theorem exec_call_of_sp_full (nnn : Addr12) (h : s.sp.val = 16) :
    exec (.call nnn) s = .fault (.stackOverflow nnn s) :=
  exec_fault_iff.mpr (if_pos h)

theorem exec_ret_of_sp_pos (h : 0 < s.sp.val) : exec .ret s = .next (s.popToPc h) :=
  dif_pos h

theorem exec_ret_of_sp_zero (h : s.sp.val = 0) : exec .ret s = .fault (.stackUnderflow s) :=
  exec_fault_iff.mpr (if_pos h)

/-- Only with room on the stack does a call complete, and then it has pushed the advanced PC. -/
theorem call_next {nnn : Addr12} (h : exec (.call nnn) s = .next t) :
    ∃ hsp : s.sp.val < 16, t = (s.push s.pc hsp).setPc (addrOfImm nnn) := by
  by_cases hsp : s.sp.val < 16
  · rw [exec_call_of_sp_lt nnn hsp] at h
    cases h
    exact ⟨hsp, rfl⟩
  · rw [exec_call_of_sp_full nnn (by omega)] at h
    cases h

/-- Settles O11: `piecesChangeOnlyByTheirWriters` (O51) gives the frame. -/
theorem callPushesOrOverflows : Obligations.CallPushesOrOverflows := by
  refine fun nnn s => ⟨fun h => ?_, exec_call_of_sp_full nnn⟩
  have hnext := exec_call_of_sp_lt nnn h
  exact ⟨_, hnext, addrOfImm_toNat nnn, rfl, push_stack_getElem s s.pc h,
    piecesChangeOnlyByTheirWriters _ _ _ hnext⟩

/-- Settles O12. -/
theorem returnPopsOrUnderflows : Obligations.ReturnPopsOrUnderflows :=
  fun s => ⟨fun h => ⟨_, exec_ret_of_sp_pos h, rfl, rfl, sameExcept_popToPc s h⟩, exec_ret_of_sp_zero⟩

/-- Settles O15: the slot the call filled is live at the start of the path, so it is still there for the return. -/
theorem callThenReturn : Obligations.CallThenReturn := by
  intro nnn s path n hcall hpath hback
  obtain ⟨hroom, h0⟩ := call_next hcall
  have hsp0 : (path 0).sp.val = s.sp.val + 1 := by rw [h0]; rfl
  have hspn : (path n).sp.val = s.sp.val + 1 := by rw [hback, hsp0]
  have hslot : (path n).stack[s.sp.val] = s.pc := by
    have hkept := path_stack_getElem hpath (j := ⟨s.sp.val, hroom⟩) (hsp0 ▸ Nat.lt_succ_self _)
    rw [h0] at hkept
    exact hkept.trans ((push_stack_getElem s s.pc hroom _).trans (if_pos rfl))
  refine ⟨_, exec_ret_of_sp_pos (by omega), ?_, ?_⟩
  · simp [hspn, hslot]
  · exact Fin.ext (by simp [hspn])

/-! ### Jumps (R91, R93) -/

/-- `nnn + V0` is at most 0xFFF + 0xFF: it does not wrap (R93, D23). -/
theorem addrOfImm_add_wordOfByte_toNat (nnn : Addr12) (b : Byte) :
    (addrOfImm nnn + wordOfByte b).toNat = nnn.toNat + b.toNat := by
  have hnnn := nnn.isLt
  have hb := b.isLt
  rw [BitVec.toNat_add, addrOfImm_toNat, wordOfByte_toNat]
  omega

/-- Settles O9. -/
theorem jumpSetsPc : Obligations.JumpSetsPc :=
  fun nnn s => ⟨_, rfl, addrOfImm_toNat nnn, sameExcept_setPc s _⟩

/-- Settles O10. -/
theorem jumpOffsetAddsV0 : Obligations.JumpOffsetAddsV0 :=
  fun nnn s => ⟨_, rfl, addrOfImm_add_wordOfByte_toNat nnn _, sameExcept_setPc s _⟩

/-! ### Skips (R90, R95 to R98) -/

theorem skipIf_beq (a b : Byte) (s : State) : ∃ t, skipIf (a == b) s = .next t ∧
    t.pc = (if a.toNat = b.toNat then s.pc + 2#16 else s.pc) ∧ SameExcept [.pc] s t :=
  ⟨_, skipIf_eq _ s, by simp [BitVec.toNat_inj], sameExcept_setPc s _⟩

theorem skipIf_bne (a b : Byte) (s : State) : ∃ t, skipIf (a != b) s = .next t ∧
    t.pc = (if a.toNat = b.toNat then s.pc else s.pc + 2#16) ∧ SameExcept [.pc] s t :=
  ⟨_, skipIf_eq _ s, by simp [BitVec.toNat_inj], sameExcept_setPc s _⟩

/-- Settles O13. -/
theorem skipsOnImmediate : Obligations.SkipsOnImmediate :=
  fun _ _ s => ⟨skipIf_beq _ _ s, skipIf_bne _ _ s⟩

/-- Settles O14. -/
theorem skipsOnRegisters : Obligations.SkipsOnRegisters :=
  fun _ _ s => ⟨skipIf_beq _ _ s, skipIf_bne _ _ s⟩

end Sys2Proof.Machine

/-! ## Proofs: load, ALU, random (R100 to R112) -/

namespace Sys2Proof.Machine

/-! ### Instructions that write Vx alone (R100 to R105, R111) -/

/-- Settles O17. -/
theorem loadsImmediateAndCopies : Obligations.LoadsImmediateAndCopies := fun x _ _ s =>
  ⟨⟨_, rfl, setV_getV_same s x _, regsExcept_setV s x _, sameExcept_setV s x _⟩,
    ⟨_, rfl, setV_getV_same s x _, regsExcept_setV s x _, sameExcept_setV s x _⟩⟩

/-- Settles O18: a sum of bytes wraps modulo 256. -/
theorem addImmediateWraps : Obligations.AddImmediateWraps := fun x nn s =>
  ⟨_, rfl, by rw [setV_getV_same, BitVec.toNat_add], regsExcept_setV s x _, sameExcept_setV s x _⟩

/-- Settles O19: Vx holds the OR, AND, XOR of two bytes, each read bit by bit. -/
theorem logicIsBitwise : Obligations.LogicIsBitwise := fun x _ s =>
  ⟨⟨_, rfl, fun _ => by rw [setV_getV_same, BitVec.getLsbD_or], regsExcept_setV s x _, sameExcept_setV s x _⟩,
    ⟨_, rfl, fun _ => by rw [setV_getV_same, BitVec.getLsbD_and], regsExcept_setV s x _, sameExcept_setV s x _⟩,
    ⟨_, rfl, fun _ => by rw [setV_getV_same, BitVec.getLsbD_xor], regsExcept_setV s x _, sameExcept_setV s x _⟩⟩

/-- A masked byte has no bit outside its mask. -/
theorem and_and_not_self (a nn : Byte) : (a &&& nn) &&& ~~~nn = 0x00#8 := by
  rw [BitVec.and_assoc, BitVec.and_not_self]
  exact BitVec.and_zero

/-- Settles O25: the draw is counted after Vx is written, and moves no register. -/
theorem randomIsMasked : Obligations.RandomIsMasked := by
  intro x nn s
  have hvx : (effect (.rnd x nn) s).getV x = Config.rnd s.draws &&& nn := setV_getV_same s x _
  refine ⟨effect (.rnd x nn) s, rfl, fun i => ?_, ?_, rfl, effect_regsExcept (.rnd x nn) s,
    effect_sameExcept (.rnd x nn) s⟩
  · rw [hvx, BitVec.getLsbD_and]
  · rw [hvx, and_and_not_self]

/-! ### Instructions that write a result and a flag (R88, R106 to R110) -/

/-- The difference of bytes is that of the integers modulo 256 (R107, R109). -/
theorem sub_toNat_eq_emod (a b : Byte) : ((a - b).toNat : Int) = (a.toNat - b.toNat : Int) % 256 := by
  have ha := a.isLt
  have hb := b.isLt
  rw [BitVec.toNat_sub]
  omega

theorem shiftRight_one_toNat (a : Byte) : (a >>> 1).toNat = a.toNat / 2 := by
  rw [BitVec.toNat_ushiftRight, Nat.shiftRight_eq_div_pow, pow_one]

theorem shiftLeft_one_toNat (a : Byte) : (a <<< 1).toNat = a.toNat * 2 % 256 := by
  rw [BitVec.toNat_shiftLeft, Nat.shiftLeft_eq, pow_one]

/-- A result and a flag written: VF is the flag, Vx the result unless Vx is VF (R88, D4); `P` is what is said of the
result. -/
theorem writeResultThenFlag_completes {x : Reg} {r : Byte} {c : Bool} {n : Nat} (P : Byte → Prop) (s : State)
    (hflag : (flagByte c).toNat = n) (hresult : P r) :
    ∃ t, writeResultThenFlag x r c s = .next t ∧ (t.getV vf).toNat = n ∧ (x ≠ vf → P (t.getV x)) ∧
      RegsExcept [x, vf] s t ∧ SameExcept [.regs] s t := by
  refine ⟨s.setResultFlag x r c, rfl, setResultFlag_getV_vf_toNat hflag, fun hx => ?_,
    regsExcept_setResultFlag s x r c, sameExcept_setResultFlag s x r c⟩
  rwa [State.setResultFlag, writeResultThenFlag_getV, if_neg hx, if_pos rfl]

/-- Settles O20. -/
theorem addSetsCarry : Obligations.AddSetsCarry := fun _ _ s =>
  writeResultThenFlag_completes (·.toNat = _) s (flagByte_carry_toNat _ _) (BitVec.toNat_add _ _)

/-- Settles O21. -/
theorem subtractSetsNoBorrow : Obligations.SubtractSetsNoBorrow := fun _ _ s =>
  writeResultThenFlag_completes (fun r => (r.toNat : Int) = _) s (flagByte_noBorrow_toNat _ _) (sub_toNat_eq_emod _ _)

/-- Settles O22. -/
theorem reverseSubtractSetsNoBorrow : Obligations.ReverseSubtractSetsNoBorrow := fun _ _ s =>
  writeResultThenFlag_completes (fun r => (r.toNat : Int) = _) s (flagByte_noBorrow_toNat _ _) (sub_toNat_eq_emod _ _)

/-- Settles O23. -/
theorem shiftsKeepTheBitOut : Obligations.ShiftsKeepTheBitOut := fun _ _ s =>
  ⟨writeResultThenFlag_completes (·.toNat = _) s (flagByte_bitOutRight_toNat _) (shiftRight_one_toNat _),
    writeResultThenFlag_completes (·.toNat = _) s (flagByte_bitOutLeft_toNat _) (shiftLeft_one_toNat _)⟩

end Sys2Proof.Machine

/-! ## Proofs: the index register and the memory transfers (R120 to R126) -/

namespace Sys2Proof.Machine

variable {s : State}

/-! ### The index register (R120 to R122) -/

/-- Settles O26. -/
theorem indexIsLoaded : Obligations.IndexIsLoaded :=
  fun nnn s => ⟨_, rfl, addrOfImm_toNat nnn, sameExcept_setI s _⟩

/-- The sum with I wraps modulo 65536 (R121, D8). -/
theorem add_wordOfByte_toNat (a : Word) (b : Byte) : (a + wordOfByte b).toNat = (a.toNat + b.toNat) % 65536 := by
  rw [BitVec.toNat_add, wordOfByte_toNat]

/-- Settles O27. -/
theorem indexIsComputed : Obligations.IndexIsComputed := fun _ s =>
  ⟨⟨_, rfl, add_wordOfByte_toNat s.ireg _, sameExcept_setI s _⟩, ⟨_, rfl, glyphAddr_toNat _, sameExcept_setI s _⟩⟩

/-! ### The range of a transfer, by its last byte `I + last` (R46 to R48) -/

theorem guardRange_base_of_le {last : Nat} {k : Result} (h : s.ireg.toNat + last ≤ 0xFFF) :
    guardRange s.base (last + 1) s k = k :=
  guardRange_ok (.inr (by rw [State.base]; omega)) s k

theorem guardRange_base_of_gt {last : Nat} {k : Result} (h : 0xFFF < s.ireg.toNat + last) :
    guardRange s.base (last + 1) s k = .fault (.boundsError (max s.ireg.toNat 0x1000) s) :=
  guardRange_out (Nat.succ_pos last) (by rw [State.base]; omega) s k

/-! ### Consecutive bytes (R43, R49) -/

theorem writeBytes_readByte_add (s : State) (a : Nat) {l : List Byte} {k : Nat} (h : k < l.length) :
    (s.writeBytes a l).readByte (a + k) = l[k] := by
  rw [State.writeBytes_readByte, dif_pos ⟨Nat.le_add_right a k, by rwa [Nat.add_sub_cancel_left]⟩]
  simp

theorem writeBytes_readByte_outside (s : State) {a c : Nat} {l : List Byte} (h : c < a ∨ a + l.length ≤ c) :
    (s.writeBytes a l).readByte c = s.readByte c := by
  rw [State.writeBytes_readByte, dif_neg (by omega)]

/-! ### Fx33, Fx55, Fx65 (R123 to R125) -/

/-- Hundreds, tens, ones: each fits in a byte (R123). -/
theorem decimalDigits_map_toNat (b : Byte) :
    (decimalDigits b).map BitVec.toNat = [b.toNat / 100, b.toNat / 10 % 10, b.toNat % 10] := by
  have hb := b.isLt
  simp only [decimalDigits, List.map_cons, List.map_nil, BitVec.toNat_ofNat, List.cons.injEq, and_true]
  omega

/-- Digit k of Vx is at `I + k` after Fx33. -/
theorem effect_bcd_readByte_toNat (s : State) (x : Reg) {k : Nat} (h : k < 3) :
    ((effect (.bcd x) s).readByte (s.ireg.toNat + k)).toNat =
      [(s.getV x).toNat / 100, (s.getV x).toNat / 10 % 10, (s.getV x).toNat % 10][k] := by
  simp only [← decimalDigits_map_toNat, List.getElem_map]
  exact congrArg BitVec.toNat (writeBytes_readByte_add s s.base h)

/-- Settles O28. -/
theorem bcdStoresDigits : Obligations.BcdStoresDigits := by
  refine fun x s => ⟨fun h => ⟨effect (.bcd x) s, guardRange_base_of_le h, ?_⟩, guardRange_base_of_gt⟩
  exact ⟨effect_bcd_readByte_toNat s x (k := 0) (by decide), effect_bcd_readByte_toNat s x (k := 1) (by decide),
    effect_bcd_readByte_toNat s x (k := 2) (by decide),
    fun a ha => writeBytes_readByte_outside s (ha.imp_right Nat.succ_le_of_lt), effect_sameExcept (.bcd x) s⟩

/-- Settles O29. -/
theorem dumpStoresRegisters : Obligations.DumpStoresRegisters := by
  refine fun x s => ⟨fun h => ⟨effect (.stRegs x) s, guardRange_base_of_le h, fun _ => effect_stRegs_readByte,
    fun a ha => writeBytes_readByte_outside s ?_, effect_sameExcept (.stRegs x) s⟩, guardRange_base_of_gt⟩
  rw [regsTo_length]
  exact ha.imp_right Nat.succ_le_of_lt

/-- Settles O30. -/
theorem loadReadsRegisters : Obligations.LoadReadsRegisters := by
  refine fun x s => ⟨fun h => ⟨effect (.ldRegs x) s, guardRange_base_of_le h, fun r hr => ?_, fun r hr => ?_,
    effect_sameExcept (.ldRegs x) s⟩, guardRange_base_of_gt⟩
  · exact (State.loadRegs_getV s x _ r).trans (if_pos hr)
  · exact effect_regsExcept (.ldRegs x) s r (by simpa [writesOf] using hr)

/-- Settles O31: the dump that completed was in range, so the load is too, and it reads the bytes the dump left. -/
theorem dumpThenLoadRestores : Obligations.DumpThenLoadRestores := by
  intro x s t u hdump hindex hmem
  have hfit := base_add_le_of_stRegs hdump
  obtain ⟨-, rfl⟩ := exec_next_iff.mp hdump
  obtain ⟨w, hload, hloaded, -⟩ := (loadReadsRegisters x u).1 (hindex ▸ hfit)
  refine ⟨w, hload, fun r hr => ?_⟩
  rw [hloaded r hr, hmem, hindex, effect_stRegs_readByte hr]

end Sys2Proof.Machine

/-! ## Proofs: clear and draw (R130 to R135) -/

namespace Sys2Proof.Machine

variable {s t u : State} {x y : Reg} {n : Nibble} {cx : Fin 64} {cy : Fin 32}

/-- Settles O33. -/
theorem clearScreenClears : Obligations.ClearScreenClears :=
  fun s => ⟨_, rfl, sameExcept_setFb s _, rfl, fun _ => Framebuffer.cell_clear _ _⟩

/-! ### The range of the sprite (R46 to R48) -/

theorem rangeError_eq_none_iff {count : Nat} :
    rangeError count s = none ↔ count = 0 ∨ s.ireg.toNat + count - 1 ≤ 0xFFF := by
  rw [rangeError, ite_eq_right_iff]
  simp only [reduceCtorEq, imp_false]
  omega

theorem exec_drw_next_iff : exec (.drw x y n) s = .next t ↔
    (n.toNat = 0 ∨ s.ireg.toNat + n.toNat - 1 ≤ 0xFFF) ∧ effect (.drw x y n) s = t :=
  exec_next_iff.trans (and_congr_left' rangeError_eq_none_iff)

theorem exec_drw_of_range_out (h0 : 0 < n.toNat) (h : 0xFFF < s.ireg.toNat + n.toNat - 1) :
    exec (.drw x y n) s = .fault (.boundsError (max s.ireg.toNat 0x1000) s) :=
  exec_fault_iff.mpr (if_pos ⟨h0, h⟩)

/-! ### The cells a draw toggles (R132 to R134) -/

/-- The cells the loop toggles are those the sprite covers. -/
theorem mem_spritePixels_readBytes {vx vy : Byte} {count : Nat} :
    (cx, cy) ∈ spritePixels vx vy 0 (s.readBytes s.base count) ↔ SpriteCovers s vx vy count cx cy := by
  rw [mem_spritePixels]
  simp only [SpriteCovers, readBytes_length, readBytes_getElem, exists_prop, spriteBit, pixelColumn, pixelRow,
    Fin.ext_iff, State.base, Nat.zero_add]

/-- A sprite has at most 15 rows, so a draw toggles no cell twice. -/
theorem drawing_spec (s : State) (x y : Reg) (n : Nibble) :
    (∀ cx cy, Framebuffer.cell (s.drawing x y n).1 cx cy = (Framebuffer.cell s.fb cx cy ^^
      decide ((cx, cy) ∈ spritePixels (s.getV x) (s.getV y) 0 (s.readBytes s.base n.toNat)))) ∧
    (s.drawing x y n).2 = (spritePixels (s.getV x) (s.getV y) 0 (s.readBytes s.base n.toNat)).any
      fun p => Framebuffer.cell s.fb p.1 p.2 := by
  have hn := n.isLt
  exact drawRows_spec _ _ _ (by rw [readBytes_length]; omega) _

/-- A cell is lit after a draw when exactly one of "lit before" and "covered" holds. -/
theorem cell_effect_drw : Framebuffer.cell (effect (.drw x y n) s).fb cx cy = true ↔
    ¬ (Framebuffer.cell s.fb cx cy = true ↔ SpriteCovers s (s.getV x) (s.getV y) n.toNat cx cy) := by
  rw [← mem_spritePixels_readBytes, effect, State.setV_fb, State.setFb_fb, (drawing_spec s x y n).1, bne_iff_ne,
    ne_eq, Bool.eq_iff_iff, decide_eq_true_iff]

theorem flagByte_eq_one_iff {c : Bool} : flagByte c = 0x01#8 ↔ c = true := by
  cases c <;> decide

/-- VF is 1 after a draw when some covered cell was lit before. -/
theorem effect_drw_getV_vf_eq_one_iff : (effect (.drw x y n) s).getV vf = 0x01#8 ↔
    ∃ cx cy, SpriteCovers s (s.getV x) (s.getV y) n.toNat cx cy ∧ Framebuffer.cell s.fb cx cy = true := by
  simp only [← mem_spritePixels_readBytes]
  rw [effect, setV_getV_same, flagByte_eq_one_iff, (drawing_spec s x y n).2, List.any_eq_true, Prod.exists]

theorem effect_drw_getV_vf_eq_zero_or_one (s : State) (x y : Reg) (n : Nibble) :
    (effect (.drw x y n) s).getV vf = 0x00#8 ∨ (effect (.drw x y n) s).getV vf = 0x01#8 := by
  rw [effect, setV_getV_same]
  exact flagByte_eq_zero_or_one _

/-- Settles O34. -/
theorem drawTogglesTheSprite : Obligations.DrawTogglesTheSprite := by
  refine fun x y n s => ⟨fun h => ?_, exec_drw_of_range_out⟩
  exact ⟨effect (.drw x y n) s, exec_drw_next_iff.mpr ⟨h, rfl⟩, fun _ _ => cell_effect_drw,
    effect_drw_getV_vf_eq_zero_or_one s x y n, effect_drw_getV_vf_eq_one_iff, effect_regsExcept (.drw x y n) s,
    effect_sameExcept (.drw x y n) s⟩

/-! ### Drawing twice (R135) -/

/-- The sprite covers the same cells in two states with the same I and the same sprite bytes. -/
theorem spriteCovers_congr {vx vy : Byte} {count : Nat} (hindex : u.ireg = s.ireg)
    (hbytes : ∀ k, k < count → u.readByte (s.ireg.toNat + k) = s.readByte (s.ireg.toNat + k)) :
    SpriteCovers u vx vy count cx cy ↔ SpriteCovers s vx vy count cx cy := by
  refine exists_congr fun row => exists_congr fun col => and_congr_right fun hrow => ?_
  rw [hindex, hbytes row hrow]

/-- Settles O35: the second draw toggles the same cells, and a covered cell is lit before it when it was unlit before
the first. -/
theorem drawTwiceRestores : Obligations.DrawTwiceRestores := by
  intro x y n s t u hdraw hfb hx hy hindex hbytes
  obtain ⟨hrange, rfl⟩ := exec_drw_next_iff.mp hdraw
  have hcovers : ∀ cx cy, SpriteCovers u (u.getV x) (u.getV y) n.toNat cx cy ↔
      SpriteCovers s (s.getV x) (s.getV y) n.toNat cx cy := fun _ _ => by
    rw [hx, hy]
    exact spriteCovers_congr hindex hbytes
  refine ⟨effect (.drw x y n) u, exec_drw_next_iff.mpr ⟨hindex ▸ hrange, rfl⟩,
    Framebuffer.ext_cell fun cx cy => ?_, effect_drw_getV_vf_eq_zero_or_one u x y n, ?_⟩
  · rw [Bool.eq_iff_iff, cell_effect_drw, hcovers, hfb, cell_effect_drw]
    tauto
  · rw [effect_drw_getV_vf_eq_one_iff]
    refine exists_congr fun cx => exists_congr fun cy => ?_
    rw [hcovers, hfb, cell_effect_drw, ← Bool.not_eq_true]
    tauto

end Sys2Proof.Machine

/-! ## Proofs: keypad and timers (R140 to R146) -/

namespace Sys2Proof.Machine

variable {s : State}

/-! ### The skips on a key (R140, R141) -/

/-- A skip on the key that an index up to 15 names changes PC alone, on the condition `c` of that key. -/
theorem withKey_skipIf_completes {b : Byte} {k : Fin 16} (hb : b.toNat = k.val) (c : Bool → Bool) (s : State) :
    ∃ t, withKey b s (fun pressed => skipIf (c pressed) s) = .next t ∧
      t.pc = (if c s.key[k] then s.pc + 2#16 else s.pc) ∧ SameExcept [.pc] s t := by
  refine ⟨s.setPc (if c s.key[k] then s.pc + 2#16 else s.pc), ?_, rfl, sameExcept_setPc s _⟩
  rw [withKey_ok (hb ▸ k.isLt), skipIf_eq]
  simp only [hb, Fin.getElem_fin]

/-- Settles O36: ExA1 is the skip on the negated key. -/
theorem skipsOnKey : Obligations.SkipsOnKey := by
  refine fun x s => ⟨fun k hk => ⟨withKey_skipIf_completes hk id s, ?_⟩, fun h =>
    ⟨exec_fault_iff.mpr (if_pos h), exec_fault_iff.mpr (if_pos h)⟩⟩
  obtain ⟨t, hnext, hpc, hframe⟩ := withKey_skipIf_completes hk not s
  exact ⟨t, hnext, hpc.trans (by cases s.key[k] <;> rfl), hframe⟩

/-! ### The wait for a key (R142) -/

/-- The scan finds a pressed key below which none is pressed. -/
theorem lowestKey_eq_some {key : Vector Bool 16} {k : Fin 16} (hk : key[k] = true)
    (hbelow : ∀ j : Fin 16, j < k → key[j] = false) : lowestKey key = some k := by
  cases hfound : lowestKey key with
  | none => exact absurd (lowestKey_none.mp hfound k) (by simp [hk])
  | some m =>
    obtain ⟨hm, hmin⟩ := lowestKey_some hfound
    obtain hlt | rfl | hgt := lt_trichotomy m k
    · exact absurd (hbelow m hlt) (by simp [hm])
    · rfl
    · exact absurd (hmin k hgt) (by simp [hk])

theorem exec_ldVxK_of_lowestKey_some {k : Fin 16} (h : lowestKey s.key = some k) (x : Reg) :
    exec (.ldVxK x) s = .next (s.setV x (BitVec.ofNat 8 k.val)) := by
  rw [exec, execLdVxK, h]

theorem exec_ldVxK_of_lowestKey_none (h : lowestKey s.key = none) (x : Reg) :
    exec (.ldVxK x) s = .next (s.setPc (s.pc - 2#16)) := by
  rw [exec, execLdVxK, h]

/-- Settles O37, by what the scan finds. -/
theorem waitsForTheLowestKey : Obligations.WaitsForTheLowestKey := by
  refine fun x s => ⟨fun k hk hbelow => ?_, fun h => ?_⟩
  · refine ⟨_, exec_ldVxK_of_lowestKey_some (lowestKey_eq_some hk hbelow) x, ?_, regsExcept_setV s x _,
      sameExcept_setV s x _⟩
    rw [setV_getV_same, BitVec.toNat_ofNat]
    omega
  · exact ⟨_, exec_ldVxK_of_lowestKey_none (lowestKey_none.mpr h) x, rfl, sameExcept_setPc s _⟩

/-! ### The timers (R143 to R146, R163) -/

/-- Settles O39. -/
theorem timersAreAccessed : Obligations.TimersAreAccessed := fun x s =>
  ⟨⟨_, rfl, setV_getV_same s x _, regsExcept_setV s x _, sameExcept_setV s x _⟩,
    ⟨_, rfl, rfl, sameExcept_setDt s _⟩, ⟨_, rfl, rfl, sameExcept_setSt s _⟩⟩

/-- A timer goes down by one and stops at 0: the subtraction of `Nat` (R163). -/
theorem tickTimer_toNat (b : Byte) : (tickTimer b).toNat = b.toNat - 1 := by
  unfold tickTimer
  split
  · next h => rw [h]; rfl
  · next h => bv_omega

@[simp] theorem tick_dt (s : State) : (tick s).dt = tickTimer s.dt := rfl

theorem iterate_tick_dt_toNat (k : Nat) (s : State) : (tick^[k] s).dt.toNat = s.dt.toNat - k := by
  induction k with
  | zero => rfl
  | succ k ih =>
    rw [Function.iterate_succ_apply', tick_dt, tickTimer_toNat, ih]
    omega

/-- Settles O40: Fx07 reads the DT that Fx15 left and k TICKs counted down. -/
theorem delayTimerCountsDown : Obligations.DelayTimerCountsDown := by
  intro x y s t k h
  obtain ⟨-, rfl⟩ := exec_next_iff.mp h
  refine ⟨_, rfl, ?_⟩
  rw [setV_getV_same, iterate_tick_dt_toNat]
  rfl

end Sys2Proof.Machine

/-! ## Proofs: the errors of the transactions, TICK and KEYSET (R150, R163, R170) -/

namespace Sys2Proof.Machine

variable {s : State} {f : Fault} {image : List Byte}

/-! ### Exactly the errors of the table (R81, R150, R156) -/

/-- Above the fetch bound the fetch's own BoundsError; below it the error due for the fetched instruction. -/
theorem stepInstr_fault_iff : stepInstr s = .fault f ↔
    (0xFFE < s.pc.toNat ∧ f = .boundsError (max s.pc.toNat 0x1000) s) ∨
    (s.pc.toNat ≤ 0xFFE ∧ expectedError (decode s.fetchWord) (s.fetched s.fetchWord) = some f) := by
  rcases Nat.lt_or_ge 0xFFE s.pc.toNat with h | h
  · rw [stepInstr_of_pc_gt h]
    simp [h, Nat.not_le.mpr h, eq_comm]
  · rw [stepInstr_of_pc_le h, exec_fault_iff]
    simp [h, Nat.not_lt.mpr h]

/-- Before the launch a LOAD errs exactly when the image does not fit (R182). -/
theorem load_fault_iff (hlaunched : s.launched = false) :
    load image s = .fault f ↔ 4096 < 0x200 + image.length ∧ f = .capacityError image.length s := by
  rw [load, if_neg (by simp [hlaunched])]
  split
  · next h => simp [h, raise, eq_comm]
  · next h => simp [h]

/-- Settles O52: `exec_fault_iff` for the handlers, the two lemmas above for STEP and LOAD; the other transactions
complete, and codes and info values are read off, by definition. -/
theorem errorsExactlyAsListed : Obligations.ErrorsExactlyAsListed :=
  ⟨fun _ _ _ => exec_fault_iff, fun _ _ => stepInstr_fault_iff, fun _ _ _ => load_fault_iff,
    fun _ _ _ => ⟨⟨_, rfl⟩, ⟨_, rfl⟩, ⟨_, rfl⟩, ⟨_, rfl⟩⟩,
    fun _ _ _ => ⟨rfl, rfl, rfl, rfl, rfl, rfl, rfl, rfl⟩⟩

/-! ### TICK (R163) -/

theorem sameExcept_tick (s : State) : SameExcept [.dt, .st] s (tick s) :=
  ((sameExcept_setDt s _).mono (by simp)).trans ((sameExcept_setSt _ _).mono (by simp))

/-- Settles O41. -/
theorem tickDecrementsTimers : Obligations.TickDecrementsTimers :=
  fun s => ⟨tick s, rfl, tickTimer_toNat s.dt, tickTimer_toNat s.st, sameExcept_tick s⟩

/-! ### KEYSET (R170) -/

theorem sameExcept_setKey (s : State) (k : Fin 16) (b : Bool) : SameExcept [.key] s (s.setKey k b) := by
  intro p hp
  cases p <;> simp_all [SamePiece]

theorem setKey_key_getElem (s : State) (k : Fin 16) (b : Bool) (j : Fin 16) :
    (s.setKey k b).key[j] = if j = k then b else s.key[j] := by
  simp [Vector.getElem_set, Fin.ext_iff, eq_comm]

/-- Settles O42. -/
theorem keySetWritesOneKey : Obligations.KeySetWritesOneKey :=
  fun k b s => ⟨s.setKey k b, rfl, setKey_key_getElem s k b, sameExcept_setKey s k b⟩

end Sys2Proof.Machine

/-! ## Proofs: a STEP that sends PC back to its own instruction (R142, R188, R190) -/

namespace Sys2Proof.Machine

variable {s t : State} {x : Reg}

/-- What a STEP leaves when its handler does no more than put PC back at the instruction fetched. -/
def State.stalled (s : State) : State := { s with opcode := s.fetchWord, launched := true }

theorem fetched_setPc_pc (s : State) : (s.fetched s.fetchWord).setPc s.pc = s.stalled := rfl

theorem sameExcept_stalled (s : State) : SameExcept [.opcode, .launched] s s.stalled := by
  intro p hp
  cases p
  case opcode | launched => simp at hp
  case regs | mem => exact fun _ => rfl
  all_goals rfl

/-! ### The wait for a key (R142, R188) -/

/-- With no key down Fx0A takes back the fetch's advance of PC. -/
theorem stepInstr_ldVxK_of_lowestKey_none (hpc : s.pc.toNat ≤ 0xFFE) (hdecode : decode s.fetchWord = .ldVxK x)
    (hkey : lowestKey s.key = none) : stepInstr s = .next s.stalled := by
  rw [stepInstr_of_pc_le hpc, hdecode, exec_ldVxK_of_lowestKey_none (s := s.fetched s.fetchWord) hkey,
    State.fetched_pc, BitVec.add_sub_cancel, fetched_setPc_pc]

/-- The first step of a run. -/
theorem run_succ_of_step_next {M : Host.Core} {s t : M.State} (h : M.step s = .next t) (n : Nat) :
    M.run (n + 1) s = M.run n t := by
  rw [Host.Core.run, h]

/-- A run that steps into a state that steps to itself ends there, however long it is. -/
theorem run_succ_of_step_self {M : Host.Core} {s t : M.State} (hst : M.step s = .next t) (htt : M.step t = .next t)
    (n : Nat) : M.run (n + 1) s = .next t := by
  rw [run_succ_of_step_next hst]
  induction n with
  | zero => rfl
  | succ n ih => rw [run_succ_of_step_next htt, ih]

/-- Settles O38: the stalled state has the same PC, memory and keys, so a STEP from it stalls again, in itself. -/
theorem keyWaitRepeats : Obligations.KeyWaitRepeats := by
  intro x s hsched hpc hdecode hkeys
  have hkey := lowestKey_none.mpr hkeys
  have hfirst : step s = .next s.stalled :=
    (step_of_schedule_nil hsched).trans (stepInstr_ldVxK_of_lowestKey_none hpc hdecode hkey)
  have hagain : step s.stalled = .next s.stalled :=
    (step_of_schedule_nil (s := s.stalled) hsched).trans
      (stepInstr_ldVxK_of_lowestKey_none (s := s.stalled) hpc hdecode hkey)
  exact ⟨s.stalled, sameExcept_stalled s, rfl, run_succ_of_step_self hfirst hagain⟩

/-! ### The jump to itself (R91, R190) -/

theorem addrOfImm_nnn_of_le {a : Word} (h : a.toNat ≤ 0xFFF) : addrOfImm (Word.nnn a) = a := by
  apply BitVec.eq_of_toNat_eq
  rw [addrOfImm_toNat, Word.nnn, BitVec.extractLsb'_toNat, Nat.shiftRight_zero]
  exact Nat.mod_eq_of_lt (Nat.lt_succ_of_le h)

/-- The word of 1nnn is its family bit set in the address (R62, R64). -/
theorem encode_jp_eq_or (nnn : Addr12) : encode (.jp nnn) = 0x1000#16 ||| addrOfImm nnn := by
  rw [encode, encodeNnn, BitVec.append_def]
  rfl

/-- The word that marks the end of a program at `a` is a jump to `a` (R190, D17). -/
theorem decode_jump_to {a : Word} (h : a.toNat ≤ 0xFFF) : decode (0x1000#16 ||| a) = .jp (Word.nnn a) := by
  have hword : encode (.jp (Word.nnn a)) = 0x1000#16 ||| a := by rw [encode_jp_eq_or, addrOfImm_nnn_of_le h]
  rw [← hword, decode_encode rfl]

theorem stepInstr_of_finished (h : Finished s) : stepInstr s = .next s.stalled := by
  obtain ⟨hpc, hword⟩ := h
  have hle : s.pc.toNat ≤ 0xFFF := Nat.le_succ_of_le hpc
  have hdecode : decode s.fetchWord = .jp (Word.nnn s.pc) := hword ▸ decode_jump_to hle
  calc stepInstr s = .next ((s.fetched s.fetchWord).setPc (addrOfImm (Word.nnn s.pc))) := by
        rw [stepInstr_of_pc_le hpc, hdecode]; rfl
    _ = .next s.stalled := by rw [addrOfImm_nnn_of_le hle, fetched_setPc_pc]

/-- Settles O55: the jump stalls, and being finished depends on PC and memory alone. -/
theorem finishedStaysFinished : Obligations.FinishedStaysFinished := by
  intro s hfinished hstep
  have hpop : Finished s.popSchedule := hfinished
  refine ⟨s.popSchedule.stalled, ?_, ?_, rfl, hfinished⟩
  · rw [step_of_nextTransaction_step hstep, stepInstr_of_finished hpop]
  · exact ((sameExcept_popSchedule s).mono (by simp)).trans ((sameExcept_stalled _).mono (by simp))

end Sys2Proof.Machine

/-! ## Proofs: LOAD, the launch and RESET (R181 to R183) -/

namespace Sys2Proof.Machine

variable {s t : State} {image : List Byte}

/-! ### LOAD (R182) -/

theorem load_of_fit (hlaunched : s.launched = false) (hfit : 0x200 + image.length ≤ 4096) :
    load image s = .next { s.writeBytes 0x200 image with launched := true } := by
  rw [load, if_neg (by simp [hlaunched]), if_neg (Nat.not_lt.mpr hfit)]

theorem sameExcept_launched (s : State) (b : Bool) : SameExcept [.launched] s { s with launched := b } := by
  intro p hp
  cases p
  case launched => simp at hp
  case regs | mem => exact fun _ => rfl
  all_goals rfl

/-- Settles O45: the copy is `writeBytes` at 0x200, and `load_fault_iff` gives the error. -/
theorem loadCopiesAllOrNothing : Obligations.LoadCopiesAllOrNothing := by
  refine fun image s hlaunched => ⟨fun hfit => ?_, fun hbig => (load_fault_iff hlaunched).mpr ⟨hbig, rfl⟩⟩
  exact ⟨_, load_of_fit hlaunched hfit, fun _ => writeBytes_readByte_add s 0x200,
    fun _ => writeBytes_readByte_outside s,
    ((sameExcept_writeBytes s 0x200 image).mono (by simp)).trans ((sameExcept_launched _ true).mono (by simp))⟩

/-! ### The launch (R183, log 4) -/

theorem load_next_launched (h : load image s = .next t) : t.launched = true := by
  obtain ⟨-, rfl⟩ := load_next h
  rfl

/-- No handler touches the launch flag. -/
theorem effect_launched (i : Instr) (s : State) : (effect i s).launched = s.launched :=
  effect_sameExcept i s .launched (by cases i <;> simp [touched])

/-- The fetch launches the block. -/
theorem stepInstr_next_launched (h : stepInstr s = .next t) : t.launched = true := by
  rw [stepInstr_next h, effect_launched, State.fetched_launched]

theorem transact_keeps_launched {tr : Transaction} (hreset : tr ≠ .reset) (hlaunched : s.launched = true)
    (h : transact tr s = .next t) : t.launched = true := by
  cases tr with
  | reset => exact absurd rfl hreset
  | load image => exact load_next_launched h
  | step => exact stepInstr_next_launched h
  | tick | keySet | fbRead =>
    cases h
    exact hlaunched

/-- Settles O46. -/
theorem secondLoadIsRefused : Obligations.SecondLoadIsRefused := fun _ _ =>
  ⟨fun hlaunched => load_refused_iff.mpr ⟨hlaunched, rfl⟩, fun _ => load_next_launched,
    fun _ => stepInstr_next_launched, fun _ _ => transact_keeps_launched⟩

/-! ### RESET (R181) -/

/-- Settles O44: the three kept fields are all that RESET takes from the state it finds. -/
theorem resetKeepsTheModelsOwn : Obligations.ResetKeepsTheModelsOwn := by
  intro s
  refine ⟨hostReset s, rfl, rfl, rfl, rfl, rfl, fun hfont hdraws hsched => ?_⟩
  rw [hostReset, hfont, hdraws, hsched, State.reset]

end Sys2Proof.Machine
